-- ==== Sys2Proof/Word.lean ====
section
/-! DEFINITION. The words of EFG-CORE: the widths of R6, R90 to R93 and the transaction word as a port carries it. -/

namespace Sys2Proof

/-- A packet byte. -/
abbrev Byte := BitVec 8

/-- Format SMP, the word on `smp_data` (R91). -/
abbrev SampleWord := BitVec 16

/-- Format BUS, the concatenation of `bus_we`, `bus_addr`, `bus_wdata` (R92). -/
abbrev BusWord := BitVec 41

/-- Format PIN, the `rst` input (R93). -/
abbrev PinWord := BitVec 1

/-- The value of a host register, or the write data of the bus (R38, R90). -/
abbrev RegWord := BitVec 32

/-- A byte address of the host register window (R71). -/
abbrev BusAddr := BitVec 8

/-- The three formats. The port that carries a transaction tells its format, never its bits (R97). -/
inductive Format where
  | smp
  | bus
  | pin
  deriving DecidableEq, Repr

/-- A transaction word together with the port that carries it (R97). -/
inductive TxWord where
  | smp (w : SampleWord)
  | bus (w : BusWord)
  | pin (w : PinWord)
  deriving DecidableEq, Repr

end Sys2Proof
end

