-- ==== Sys2Proof/Syntax.lean ====
section
/-! DEFINITION. The instructions: one constructor for each row of the opcode map (R95), carrying every bit that the row's
mask leaves open. A read keeps its 32 ignored data bits (R92), a sample its 15 ignored magnitude bits (R91), so that no bit
of a transaction word is lost between the decoder and the encoder. -/

namespace Sys2Proof

/-- The names of the 27 rows of R95, in its order. -/
inductive Opcode where
  | smpHi
  | smpLo
  | rdCtrl
  | wrCtrl
  | rdStatus
  | wrStatus
  | rdSyncMin
  | wrSyncMin
  | rdBitThresh
  | wrBitThresh
  | rdPktLen
  | wrPktLen
  | rdChkOffset
  | wrChkOffset
  | rdAddrFilter
  | wrAddrFilter
  | rdPktTotal
  | rdPktChkOk
  | rdPktAddrOk
  | wrRxPop
  | rdRxLen
  | rdDbg
  | rdRunLen
  | rdRxByte
  | rdZero
  | wrIgnored
  | rst
  deriving DecidableEq, Repr

inductive Instr where
  /-- SMP_HI (R106): a sample whose sign bit is 0; `m` is bits 14:0, ignored. -/
  | smpHi (m : BitVec 15)
  /-- SMP_LO (R107): a sample whose sign bit is 1; `m` is bits 14:0, ignored. -/
  | smpLo (m : BitVec 15)
  /-- RD_CTRL (R210): `d` is the bus write data, ignored by a read. -/
  | rdCtrl (d : RegWord)
  /-- WR_CTRL (R212): `d` is the write data. -/
  | wrCtrl (d : RegWord)
  /-- RD_STATUS (R211): `d` is the bus write data, ignored by a read. -/
  | rdStatus (d : RegWord)
  /-- WR_STATUS (R213): `d` is the write data. -/
  | wrStatus (d : RegWord)
  /-- RD_SYNC_MIN (R214): `d` is the bus write data, ignored by a read. -/
  | rdSyncMin (d : RegWord)
  /-- WR_SYNC_MIN (R215): `d` is the write data. -/
  | wrSyncMin (d : RegWord)
  /-- RD_BIT_THRESH (R217): `d` is the bus write data, ignored by a read. -/
  | rdBitThresh (d : RegWord)
  /-- WR_BIT_THRESH (R218): `d` is the write data. -/
  | wrBitThresh (d : RegWord)
  /-- RD_PKT_LEN (R219): `d` is the bus write data, ignored by a read. -/
  | rdPktLen (d : RegWord)
  /-- WR_PKT_LEN (R220): `d` is the write data. -/
  | wrPktLen (d : RegWord)
  /-- RD_CHK_OFFSET (R221): `d` is the bus write data, ignored by a read. -/
  | rdChkOffset (d : RegWord)
  /-- WR_CHK_OFFSET (R222): `d` is the write data. -/
  | wrChkOffset (d : RegWord)
  /-- RD_ADDR_FILTER (R223): `d` is the bus write data, ignored by a read. -/
  | rdAddrFilter (d : RegWord)
  /-- WR_ADDR_FILTER (R224): `d` is the write data. -/
  | wrAddrFilter (d : RegWord)
  /-- RD_PKT_TOTAL (R225): `d` is the bus write data, ignored by a read. -/
  | rdPktTotal (d : RegWord)
  /-- RD_PKT_CHK_OK (R226): `d` is the bus write data, ignored by a read. -/
  | rdPktChkOk (d : RegWord)
  /-- RD_PKT_ADDR_OK (R227): `d` is the bus write data, ignored by a read. -/
  | rdPktAddrOk (d : RegWord)
  /-- WR_RX_POP (R216): `d` ignored. -/
  | wrRxPop (d : RegWord)
  /-- RD_RX_LEN (R228): `d` is the bus write data, ignored by a read. -/
  | rdRxLen (d : RegWord)
  /-- RD_DBG (R229): `d` is the bus write data, ignored by a read. -/
  | rdDbg (d : RegWord)
  /-- RD_RUN_LEN (R230): `d` is the bus write data, ignored by a read. -/
  | rdRunLen (d : RegWord)
  /-- RD_RX_BYTE (R231): `i` is address bits 5:2, `d` the ignored write data. -/
  | rdRxByte (i : BitVec 4) (d : RegWord)
  /-- RD_ZERO (R232): a read no earlier row matches; `a` the address, `d` ignored. -/
  | rdZero (a : BusAddr) (d : RegWord)
  /-- WR_IGNORED (R233): a write no earlier row matches; `a` the address, `d` ignored. -/
  | wrIgnored (a : BusAddr) (d : RegWord)
  /-- RST (R400): the reset pin. -/
  | rst
  deriving DecidableEq, Repr

/-- The row of R95 an instruction belongs to. -/
def Instr.opcode : Instr → Opcode
  | .smpHi _ => .smpHi
  | .smpLo _ => .smpLo
  | .rdCtrl _ => .rdCtrl
  | .wrCtrl _ => .wrCtrl
  | .rdStatus _ => .rdStatus
  | .wrStatus _ => .wrStatus
  | .rdSyncMin _ => .rdSyncMin
  | .wrSyncMin _ => .wrSyncMin
  | .rdBitThresh _ => .rdBitThresh
  | .wrBitThresh _ => .wrBitThresh
  | .rdPktLen _ => .rdPktLen
  | .wrPktLen _ => .wrPktLen
  | .rdChkOffset _ => .rdChkOffset
  | .wrChkOffset _ => .wrChkOffset
  | .rdAddrFilter _ => .rdAddrFilter
  | .wrAddrFilter _ => .wrAddrFilter
  | .rdPktTotal _ => .rdPktTotal
  | .rdPktChkOk _ => .rdPktChkOk
  | .rdPktAddrOk _ => .rdPktAddrOk
  | .wrRxPop _ => .wrRxPop
  | .rdRxLen _ => .rdRxLen
  | .rdDbg _ => .rdDbg
  | .rdRunLen _ => .rdRunLen
  | .rdRxByte _ _ => .rdRxByte
  | .rdZero _ _ => .rdZero
  | .wrIgnored _ _ => .wrIgnored
  | .rst => .rst

end Sys2Proof
end

