-- ==== Sys2Proof/WellFormed.lean ====
section
/-! DEFINITION. Well-formedness. Only the two catch-all rows have operands that an encoding does not admit: an address that an
earlier row of R95 matches belongs to that row, since the first row that matches wins. -/

namespace Sys2Proof

/-- The addresses of the named read rows of R95 with one address each. -/
def namedReads : List BusAddr :=
  [0x00, 0x04, 0x08, 0x0C, 0x10, 0x14, 0x18, 0x1C, 0x20, 0x24, 0x2C, 0x30, 0x34]

/-- The addresses of the named write rows of R95. -/
def namedWrites : List BusAddr :=
  [0x00, 0x04, 0x08, 0x0C, 0x10, 0x14, 0x18, 0x28]

/-- An address that the row RD_RX_BYTE matches: 0x40 to 0x7C in steps of 4 (R95). -/
def isRxByteAddr (a : BusAddr) : Bool := a &&& 0xC3 == 0x40

/-- Some row before RD_ZERO matches a read of the address (R95). -/
def readIsNamed (a : BusAddr) : Bool := namedReads.contains a || isRxByteAddr a

/-- Some row before WR_IGNORED matches a write to the address (R95). -/
def writeIsNamed (a : BusAddr) : Bool := namedWrites.contains a

/-- The operands are ones the instruction's encoding admits (R95). -/
def Instr.wf : Instr → Bool
  | .smpHi _ => true
  | .smpLo _ => true
  | .rdCtrl _ => true
  | .wrCtrl _ => true
  | .rdStatus _ => true
  | .wrStatus _ => true
  | .rdSyncMin _ => true
  | .wrSyncMin _ => true
  | .rdBitThresh _ => true
  | .wrBitThresh _ => true
  | .rdPktLen _ => true
  | .wrPktLen _ => true
  | .rdChkOffset _ => true
  | .wrChkOffset _ => true
  | .rdAddrFilter _ => true
  | .wrAddrFilter _ => true
  | .rdPktTotal _ => true
  | .rdPktChkOk _ => true
  | .rdPktAddrOk _ => true
  | .wrRxPop _ => true
  | .rdRxLen _ => true
  | .rdDbg _ => true
  | .rdRunLen _ => true
  | .rdRxByte _ _ => true
  | .rdZero a _ => !readIsNamed a
  | .wrIgnored a _ => !writeIsNamed a
  | .rst => true

end Sys2Proof
end

