-- ==== Sys2Proof/Decode.lean ====
section
/-! DEFINITION. The decoder and the encoder (R90 to R97), and the byte forms of the transaction words (R72). -/

namespace Sys2Proof

/-- Why a word or a list of bytes is no instruction. No SMP and no BUS word is ever rejected (R96). -/
inductive DecodeError where
  /-- The PIN value 0: no transaction (R93). -/
  | noTransaction
  /-- The bytes are not as many as the format has. -/
  | wrongLength
  /-- The bytes hold a bit above the format's width. -/
  | bitsAboveFormat
  deriving DecidableEq, Repr

/-! ## Fields -/

/-- `bus_we`, bit 40 (R92). -/
def busWe (w : BusWord) : Bool := w.getLsbD 40

/-- `bus_addr`, bits 39:32 (R92). -/
def busAddr (w : BusWord) : BusAddr := w.extractLsb' 32 8

/-- `bus_wdata`, bits 31:0 (R92). -/
def busData (w : BusWord) : RegWord := w.extractLsb' 0 32

/-- The index of RX_BYTEi, `a[5:2]` (R94). -/
def rxIndex (a : BusAddr) : BitVec 4 := a.extractLsb' 2 4

/-- The sign bit, bit 15: the opcode bit of format SMP (R91). -/
def smpSign (w : SampleWord) : Bool := w.getLsbD 15

/-- The magnitude bits 14:0 (R91). -/
def smpMagnitude (w : SampleWord) : BitVec 15 := w.extractLsb' 0 15

/-! ## Decoding -/

/-- Format SMP: bit 15 is 0 for SMP_HI and 1 for SMP_LO (R91, R95). -/
def decodeSmp (w : SampleWord) : Instr :=
  if smpSign w then .smpLo (smpMagnitude w) else .smpHi (smpMagnitude w)

/-- The read rows of R95 in their order. -/
def decodeRead (a : BusAddr) (d : RegWord) : Instr :=
  if a = 0x00 then .rdCtrl d
  else if a = 0x04 then .rdStatus d
  else if a = 0x08 then .rdSyncMin d
  else if a = 0x0C then .rdBitThresh d
  else if a = 0x10 then .rdPktLen d
  else if a = 0x14 then .rdChkOffset d
  else if a = 0x18 then .rdAddrFilter d
  else if a = 0x1C then .rdPktTotal d
  else if a = 0x20 then .rdPktChkOk d
  else if a = 0x24 then .rdPktAddrOk d
  else if a = 0x2C then .rdRxLen d
  else if a = 0x30 then .rdDbg d
  else if a = 0x34 then .rdRunLen d
  else if isRxByteAddr a then .rdRxByte (rxIndex a) d
  else .rdZero a d

/-- The write rows of R95 in their order. -/
def decodeWrite (a : BusAddr) (d : RegWord) : Instr :=
  if a = 0x00 then .wrCtrl d
  else if a = 0x04 then .wrStatus d
  else if a = 0x08 then .wrSyncMin d
  else if a = 0x0C then .wrBitThresh d
  else if a = 0x10 then .wrPktLen d
  else if a = 0x14 then .wrChkOffset d
  else if a = 0x18 then .wrAddrFilter d
  else if a = 0x28 then .wrRxPop d
  else .wrIgnored a d

/-- Format BUS: the opcode is the pair of `bus_we` and the address (R92, R95). -/
def decodeBus (w : BusWord) : Instr :=
  if busWe w then decodeWrite (busAddr w) (busData w) else decodeRead (busAddr w) (busData w)

/-- Format PIN: the value 1 is RST, 0 is no transaction (R93). -/
def decodePin (w : PinWord) : Except DecodeError Instr :=
  if w = 1 then .ok .rst else .error .noTransaction

/-- The decoder: the port tells the format (R97). -/
def decode : TxWord → Except DecodeError Instr
  | .smp w => .ok (decodeSmp w)
  | .bus w => .ok (decodeBus w)
  | .pin w => decodePin w

/-! ## Encoding -/

/-- A SMP word of its sign bit and magnitude bits (R91). -/
def smpWord (s : BitVec 1) (m : BitVec 15) : SampleWord := s ++ m

/-- A BUS word of its three fields (R92). -/
def busWord (we : BitVec 1) (a : BusAddr) (d : RegWord) : BusWord := we ++ a ++ d

/-- The address of RX_BYTEi, `0b01iiii00` (R51, R95). -/
def rxByteAddr (i : BitVec 4) : BusAddr := (0b01 : BitVec 2) ++ i ++ (0b00 : BitVec 2)

/-- The encoder: the word of an instruction, by the formats of R91 to R93 and the addresses of R38. -/
def encode : Instr → TxWord
  | .smpHi m => .smp (smpWord 0 m)
  | .smpLo m => .smp (smpWord 1 m)
  | .rdCtrl d => .bus (busWord 0 0x00 d)
  | .wrCtrl d => .bus (busWord 1 0x00 d)
  | .rdStatus d => .bus (busWord 0 0x04 d)
  | .wrStatus d => .bus (busWord 1 0x04 d)
  | .rdSyncMin d => .bus (busWord 0 0x08 d)
  | .wrSyncMin d => .bus (busWord 1 0x08 d)
  | .rdBitThresh d => .bus (busWord 0 0x0C d)
  | .wrBitThresh d => .bus (busWord 1 0x0C d)
  | .rdPktLen d => .bus (busWord 0 0x10 d)
  | .wrPktLen d => .bus (busWord 1 0x10 d)
  | .rdChkOffset d => .bus (busWord 0 0x14 d)
  | .wrChkOffset d => .bus (busWord 1 0x14 d)
  | .rdAddrFilter d => .bus (busWord 0 0x18 d)
  | .wrAddrFilter d => .bus (busWord 1 0x18 d)
  | .rdPktTotal d => .bus (busWord 0 0x1C d)
  | .rdPktChkOk d => .bus (busWord 0 0x20 d)
  | .rdPktAddrOk d => .bus (busWord 0 0x24 d)
  | .wrRxPop d => .bus (busWord 1 0x28 d)
  | .rdRxLen d => .bus (busWord 0 0x2C d)
  | .rdDbg d => .bus (busWord 0 0x30 d)
  | .rdRunLen d => .bus (busWord 0 0x34 d)
  | .rdRxByte i d => .bus (busWord 0 (rxByteAddr i) d)
  | .rdZero a d => .bus (busWord 0 a d)
  | .wrIgnored a d => .bus (busWord 1 a d)
  | .rst => .pin 1

/-! ## The opcode map as a table -/

/-- One row of R95: a word belongs to it when its masked bits equal the match. -/
structure OpRow where
  opcode : Opcode
  format : Format
  mtch   : BitVec 41
  mask   : BitVec 41
  deriving DecidableEq, Repr

/-- The opcode map of R95, in decode-priority order. -/
def opcodeRows : List OpRow :=
  [ ⟨.smpHi, .smp, 0x0000, 0x8000⟩,
    ⟨.smpLo, .smp, 0x8000, 0x8000⟩,
    ⟨.rdCtrl, .bus, 0x00000000000, 0x1FF00000000⟩,
    ⟨.wrCtrl, .bus, 0x10000000000, 0x1FF00000000⟩,
    ⟨.rdStatus, .bus, 0x00400000000, 0x1FF00000000⟩,
    ⟨.wrStatus, .bus, 0x10400000000, 0x1FF00000000⟩,
    ⟨.rdSyncMin, .bus, 0x00800000000, 0x1FF00000000⟩,
    ⟨.wrSyncMin, .bus, 0x10800000000, 0x1FF00000000⟩,
    ⟨.rdBitThresh, .bus, 0x00C00000000, 0x1FF00000000⟩,
    ⟨.wrBitThresh, .bus, 0x10C00000000, 0x1FF00000000⟩,
    ⟨.rdPktLen, .bus, 0x01000000000, 0x1FF00000000⟩,
    ⟨.wrPktLen, .bus, 0x11000000000, 0x1FF00000000⟩,
    ⟨.rdChkOffset, .bus, 0x01400000000, 0x1FF00000000⟩,
    ⟨.wrChkOffset, .bus, 0x11400000000, 0x1FF00000000⟩,
    ⟨.rdAddrFilter, .bus, 0x01800000000, 0x1FF00000000⟩,
    ⟨.wrAddrFilter, .bus, 0x11800000000, 0x1FF00000000⟩,
    ⟨.rdPktTotal, .bus, 0x01C00000000, 0x1FF00000000⟩,
    ⟨.rdPktChkOk, .bus, 0x02000000000, 0x1FF00000000⟩,
    ⟨.rdPktAddrOk, .bus, 0x02400000000, 0x1FF00000000⟩,
    ⟨.wrRxPop, .bus, 0x12800000000, 0x1FF00000000⟩,
    ⟨.rdRxLen, .bus, 0x02C00000000, 0x1FF00000000⟩,
    ⟨.rdDbg, .bus, 0x03000000000, 0x1FF00000000⟩,
    ⟨.rdRunLen, .bus, 0x03400000000, 0x1FF00000000⟩,
    ⟨.rdRxByte, .bus, 0x04000000000, 0x1C300000000⟩,
    ⟨.rdZero, .bus, 0x00000000000, 0x10000000000⟩,
    ⟨.wrIgnored, .bus, 0x10000000000, 0x10000000000⟩,
    ⟨.rst, .pin, 0x1, 0x1⟩ ]

/-- The format a word came in (R97). -/
def TxWord.format : TxWord → Format
  | .smp _ => .smp
  | .bus _ => .bus
  | .pin _ => .pin

/-- The bits of a word, zero-extended to the widest format. -/
def TxWord.bits : TxWord → BitVec 41
  | .smp w => w.setWidth 41
  | .bus w => w
  | .pin w => w.setWidth 41

/-- The row matches the word (R95). -/
def OpRow.accepts (r : OpRow) (t : TxWord) : Bool :=
  r.format == t.format && t.bits &&& r.mask == r.mtch

/-- The first row of R95 that matches the word. -/
def firstRow (t : TxWord) : Option OpRow := opcodeRows.find? (·.accepts t)

/-! ## Bytes -/

/-- Bytes to a number, the first byte lowest. -/
def natOfBytes : List Byte → Nat
  | [] => 0
  | b :: bs => b.toNat + 256 * natOfBytes bs

/-- The lowest `n` bytes of a number, the lowest first. -/
def bytesOfNat : Nat → Nat → List Byte
  | 0, _ => []
  | n + 1, v => BitVec.ofNat 8 v :: bytesOfNat n (v / 256)

/-- The bytes and the bits of a word of each format (R97). -/
def Format.byteLen : Format → Nat
  | .smp => 2
  | .bus => 6
  | .pin => 1

def Format.bitLen : Format → Nat
  | .smp => 16
  | .bus => 41
  | .pin => 1

/-- The word a format's bytes hold. A sample's two bytes are low byte first (R72). For BUS and PIN, which the spec gives no
byte form, the same order is the model's (notes/assumptions/9.md). -/
def txOfBytes (f : Format) (bs : List Byte) : Except DecodeError TxWord :=
  if bs.length ≠ f.byteLen then .error .wrongLength
  else if 2 ^ f.bitLen ≤ natOfBytes bs then .error .bitsAboveFormat
  else .ok (match f with
    | .smp => .smp (BitVec.ofNat 16 (natOfBytes bs))
    | .bus => .bus (BitVec.ofNat 41 (natOfBytes bs))
    | .pin => .pin (BitVec.ofNat 1 (natOfBytes bs)))

/-- The decoder on bytes: total, rejecting by name. -/
def decodeBytes (f : Format) (bs : List Byte) : Except DecodeError Instr :=
  match txOfBytes f bs with
  | .ok t => decode t
  | .error e => .error e

/-- The samples of a byte stream, low byte first, an unpaired last byte dropped (R72). -/
def samplesOfBytes : List Byte → List SampleWord
  | lo :: hi :: bs => (hi ++ lo) :: samplesOfBytes bs
  | _ => []

/-- The format of an opcode-table row, told by how many bits its word has (R97: each format has its own length). -/
def formatOfBits (nbits : Nat) : Format :=
  if nbits ≤ 8 then .pin else if nbits ≤ 16 then .smp else .bus

/-- The word of an opcode-table row, laid out in bytes and read back; none where it has a bit above its format. -/
def txOfTableWord (nbits w : Nat) : Option TxWord :=
  let f := formatOfBits nbits
  if 2 ^ f.bitLen ≤ w then none else (txOfBytes f (bytesOfNat f.byteLen w)).toOption

/-- The instruction the decoder reads from the word of an opcode-table row. -/
def decodeTableWord (nbits w : Nat) : Option Instr :=
  match txOfTableWord nbits w with
  | some t => (decode t).toOption
  | none => none

end Sys2Proof
end

