-- ==== Sys2Proof/Config.lean ====
section
/-! DEFINITION. What the hardware fixes (R6) and the free values (93_implementation_defined.md section 2). -/

namespace Sys2Proof.Config

/-- Packet buffer capacity in bytes: the value that this hardware gives the model parameter `CAP` of R6. The state and every
meaning take the capacity as an argument `cap`, and this is its default (notes/assumptions/7.md). -/
abbrev CAP : Nat := 16

/-- The least legal PKT_LEN (R6, R43); the greatest is the capacity. -/
abbrev pktLenMin : Nat := 4

/-- The saturation value of the run-length counter (R6, R25). -/
def runLenMax : Nat := 0xFFFF

/-- The reset values of the configuration registers (R6, R54). -/
def syncMinReset : BitVec 16 := 40
def bitThreshReset : BitVec 16 := 20
def pktLenReset : BitVec 5 := 8
def chkOffsetReset : Byte := 0x00
def addrFilterReset : BitVec 24 := 0x000000

/-- Whether the sample 0x0000 is high: the parameter `zero_is_high` of decision D3, true for this hardware
(R100; notes/assumptions/6.md). -/
def zeroIsHigh : Bool := true

/-- FREE VALUE. Byte `i` of the packet buffer after the `n`-th draw: R400 says that `buf` becomes unspecified at RST
(notes/assumptions/3.md). -/
opaque freeBufByte (n i : Nat) : Byte

/-- FREE VALUE. What `bus_rdata` carries in a cycle of RST, at the `n`-th draw: R400 says that a read in that cycle
returns an unspecified value (notes/assumptions/3.md). -/
opaque freeRdata (n : Nat) : RegWord

end Sys2Proof.Config
end

