-- ==== Sys2Proof/Machine/State.lean ====
section
/-! DEFINITION. The architectural state of EFG-CORE (10_state.md), one structure for each group of items that R20 names, the
output ports (R90), the input pins of the coming cycles, and the state right after reset (R54). The capacity `cap` of the
packet buffer is an argument of the types it shapes, the model parameter CAP of R6, and a type written without it has this
hardware's value. -/

namespace Sys2Proof.Machine

/-- The edge-detector state (R23 to R25). A polarity is `true` for high (R24, R100). -/
structure EdgeState where
  primed  : Bool
  prevPol : Bool
  runLen  : BitVec 16
  deriving DecidableEq, Repr

/-- The decoder state (R26 to R30). -/
structure DecoderState where
  sync      : Bool
  firstEdge : Bool
  bitCnt    : BitVec 4
  acc       : Byte
  byteIdx   : BitVec 5
  deriving DecidableEq, Repr

/-- As many bytes as the capacity: the packet buffer (R31) or the bytes of the receive latch (R33). -/
abbrev Buffer (cap : Nat := Config.CAP) := Vector Byte cap

/-- The verdict counters (R32). -/
structure Counters where
  pktTotal  : BitVec 32
  pktChkOk  : BitVec 32
  pktAddrOk : BitVec 32
  deriving DecidableEq, Repr

/-- The receive latch (R33). -/
structure RxLatch (cap : Nat := Config.CAP) where
  bytes : Buffer cap
  len   : BitVec 5
  full  : Bool
  deriving DecidableEq, Repr

/-- The verdict of a packet: the four codes of R301. -/
inductive Verdict where
  | none
  | accepted
  | chkFailed
  | addrMismatch
  deriving DecidableEq, Repr

/-- The 2-bit code of a verdict (R36, R301). -/
def Verdict.code : Verdict → BitVec 2
  | .none => 0
  | .accepted => 1
  | .chkFailed => 2
  | .addrMismatch => 3

/-- The status flags (R34 to R36). -/
structure StatusFlags where
  overrun    : Bool
  resync     : Bool
  lastResult : Verdict
  deriving DecidableEq, Repr

/-- The configuration registers (R37, R39 to R45). -/
structure ConfigRegs where
  en         : Bool
  afEn       : Bool
  ie         : Bool
  syncMin    : BitVec 16
  bitThresh  : BitVec 16
  pktLen     : BitVec 5
  chkOffset  : Byte
  addrFilter : BitVec 24
  deriving DecidableEq, Repr

/-- The frame output port (R90, R168): `frm_data` has 8 bits for each byte of the buffer, 128 in this hardware. -/
structure FramePort (cap : Nat := Config.CAP) where
  valid  : Bool
  result : BitVec 2
  len    : BitVec 5
  data   : BitVec (8 * cap)
  deriving DecidableEq, Repr

/-- The frame port in a cycle with no frame: `frm_valid` = 0 and the other outputs 0 (R168). -/
def FramePort.idle {cap : Nat} : FramePort cap := { valid := false, result := 0, len := 0, data := 0 }

/-- The input pins of one clock cycle (R90): `rst`; the bus port, `none` when `bus_valid` = 0; the sample port, `none` when
`smp_valid` = 0. -/
structure Cycle where
  rst : PinWord
  bus : Option BusWord
  smp : Option SampleWord
  deriving DecidableEq, Repr

/-- A cycle in which nothing is presented. -/
def Cycle.idle : Cycle := { rst := 0, bus := none, smp := none }

/-- The machine's state, for a packet buffer of `cap` bytes (R6). `edge` to `cfg` are the architectural state (R20). `frm` is what the frame port drives in the cycle
that comes next (R168). `busRdata` is what `bus_rdata` carried in the cycle just taken, none where it had no valid data (R90,
notes/assumptions/4.md). `inputs` are the pins of the coming cycles (notes/assumptions/1.md) and `freeCount` counts the free
values drawn (notes/assumptions/3.md): these two are the model's own. -/
structure State (cap : Nat := Config.CAP) where
  edge      : EdgeState
  dec       : DecoderState
  buf       : Buffer cap
  cnt       : Counters
  rx        : RxLatch cap
  flags     : StatusFlags
  cfg       : ConfigRegs
  frm       : FramePort cap
  busRdata  : Option RegWord
  inputs    : List Cycle
  freeCount : Nat
  deriving DecidableEq, Repr

/-- No constructor: no transaction can trap, fault, stop or hang EFG-CORE (R300). -/
inductive Fault where
  deriving DecidableEq, Repr

inductive Refusal where
  /-- Raised by an arm of `exec` whose instruction has no meaning yet. Safe: the model stops where the hardware goes on.
  No arm raises it. -/
  | notModelled (mnemonic : String)
  deriving DecidableEq, Repr

/-! ## Reset values (R54) -/

def EdgeState.reset : EdgeState := { primed := false, prevPol := false, runLen := 0 }

def DecoderState.reset : DecoderState := { sync := false, firstEdge := true, bitCnt := 0, acc := 0x00, byteIdx := 0 }

def Buffer.zero {cap : Nat} : Buffer cap := Vector.replicate cap 0x00

def Counters.reset : Counters := { pktTotal := 0, pktChkOk := 0, pktAddrOk := 0 }

def RxLatch.reset {cap : Nat} : RxLatch cap := { bytes := Buffer.zero, len := 0, full := false }

def StatusFlags.reset : StatusFlags := { overrun := false, resync := false, lastResult := .none }

def ConfigRegs.reset : ConfigRegs :=
  { en := false, afEn := false, ie := false, syncMin := Config.syncMinReset, bitThresh := Config.bitThreshReset,
    pktLen := Config.pktLenReset, chkOffset := Config.chkOffsetReset, addrFilter := Config.addrFilterReset }

/-- The machine of a capacity right after reset (R54, R402). The packet buffer's contents are unspecified there; zero is the model's
(DESIGN CHOICE, unsafe, notes/assumptions/2.md), as is the start of the free counter (notes/assumptions/3.md). No input is
queued (notes/assumptions/1.md). -/
def State.resetOf (cap : Nat) : State cap :=
  { edge := .reset, dec := .reset, buf := Buffer.zero, cnt := .reset, rx := .reset, flags := .reset, cfg := .reset,
    frm := .idle, busRdata := none, inputs := [], freeCount := 0 }

/-- This hardware right after reset. -/
def State.reset : State := State.resetOf Config.CAP

end Sys2Proof.Machine
end

