-- ==== Sys2Proof/Machine/Ops.lean ====
section
/-! DEFINITION. The named operations over the state that every meaning is made of: one update for each field, the bytes of a
buffer, the decoder clear (R53), the answer of a bus read (R200), the configuration lock (R202), the reset of every state item
(R400) and the interrupt line (R302). There is no exception entry and no return from one: EFG-CORE raises no exception, saves
no state and has no handler (R300, R305, R306). -/

namespace Sys2Proof.Machine

variable {cap : Nat}

/-! ## Updates -/

def State.setEdge (e : EdgeState) (s : State cap) : State cap := { s with edge := e }
def State.setDec (d : DecoderState) (s : State cap) : State cap := { s with dec := d }
def State.setBuf (b : Buffer cap) (s : State cap) : State cap := { s with buf := b }
def State.setCnt (c : Counters) (s : State cap) : State cap := { s with cnt := c }
def State.setRx (r : RxLatch cap) (s : State cap) : State cap := { s with rx := r }
def State.setFlags (f : StatusFlags) (s : State cap) : State cap := { s with flags := f }
def State.setCfg (c : ConfigRegs) (s : State cap) : State cap := { s with cfg := c }
def State.setFrm (f : FramePort cap) (s : State cap) : State cap := { s with frm := f }
def State.setBusRdata (v : Option RegWord) (s : State cap) : State cap := { s with busRdata := v }
def State.setInputs (l : List Cycle) (s : State cap) : State cap := { s with inputs := l }
def State.setFreeCount (n : Nat) (s : State cap) : State cap := { s with freeCount := n }

/-! ## Bytes of a buffer -/

/-- Byte `i` of a buffer. An index of the capacity or more is in no reachable state (R55) and reads 0x00 (notes/assumptions/8.md). -/
def Buffer.byte (b : Buffer cap) (i : Nat) : Byte := b[i]?.getD 0x00

/-- The bounds-checked write of R144. An index of the capacity or more is in no reachable state (R55) and writes nothing
(notes/assumptions/8.md). -/
def Buffer.put (b : Buffer cap) (i : Nat) (v : Byte) : Buffer cap := b.setIfInBounds i v

/-- The first `n` bytes of a buffer with 0x00 above them (R167). -/
def Buffer.first (b : Buffer cap) (n : Nat) : Buffer cap := Vector.ofFn fun i => if i.val < n then b.byte i.val else 0x00

/-! ## Named operations -/

/-- Decoder clear (R53): the edge-detector and decoder state, and nothing else. -/
def State.decoderClear (s : State cap) : State cap := (s.setEdge .reset).setDec .reset

/-- BusRead (R200): the value stands on `bus_rdata` in the same cycle and no state changes. -/
def readReg (v : RegWord) (s : State cap) : Host.Outcome (State cap) Fault Refusal := .next (s.setBusRdata (some v))

/-- The configuration lock (R202): the write takes effect only if CTRL.EN = 0 at its start. -/
def writeUnlocked (f : ConfigRegs → ConfigRegs) (s : State cap) : State cap := if s.cfg.en then s else s.setCfg (f s.cfg)

/-- The packet buffer after RST: unspecified (R31, R400), so free values (notes/assumptions/3.md). -/
def freeBuffer (n : Nat) : Buffer cap := Vector.ofFn fun i => Config.freeBufByte n i.val

/-- RST (R400): every state item takes its reset value and the ports are idle (R54); the buffer becomes unspecified, and so is
`bus_rdata` in this cycle. The pins of the coming cycles are not the machine's to reset. -/
def State.resetAll (s : State cap) : State cap :=
  { edge := .reset, dec := .reset, buf := freeBuffer s.freeCount, cnt := .reset, rx := .reset, flags := .reset, cfg := .reset,
    frm := .idle, busRdata := some (Config.freeRdata s.freeCount), inputs := s.inputs, freeCount := s.freeCount + 1 }

/-- The `irq` output (R302), a level computed from state. -/
def State.irq (s : State cap) : Bool := s.cfg.ie && (s.rx.full || s.flags.overrun)

end Sys2Proof.Machine
end

