-- ==== Sys2Proof/Machine/Cycles.lean ====
section
/-! DEFINITION. The clock cycle (R81, R90): what a cycle's pins ask for, in the order in which it takes effect, and how a
transaction or a byte stream stands on the pins. -/

namespace Sys2Proof.Machine

variable {cap : Nat}

/-- The instructions of a cycle in their order (R81): RST alone if `rst` is 1, else the bus transaction, then the sample. -/
def cycleInstrs (c : Cycle) : List Instr :=
  match decodePin c.rst with
  | .ok i => [i]
  | .error _ => (c.bus.map decodeBus).toList ++ (c.smp.map decodeSmp).toList

/-- The pins of the next cycle; idle when no input is queued (R408: the state is held). -/
def State.nextCycle (s : State cap) : Cycle := s.inputs.headD .idle

/-- The start of a cycle: its pins leave the queue, no read has answered yet, and the frame port's one cycle is over
(R168). -/
def State.beginCycle (s : State cap) : State cap := ((s.setInputs s.inputs.tail).setBusRdata none).setFrm .idle

/-- The instructions of one cycle, one after another, each seeing the effects of those before it (R83). `ex` runs one. -/
def runInstrs (ex : Instr → State cap → Host.Outcome (State cap) Fault Refusal) :
    List Instr → State cap → Host.Outcome (State cap) Fault Refusal
  | [], s => .next s
  | i :: is, s =>
    match ex i s with
    | .next t => runInstrs ex is t
    | .fault r => .fault r
    | .refused r => .refused r

/-- One clock cycle (R81), its instructions run by `ex`. -/
def runCycle (ex : Instr → State cap → Host.Outcome (State cap) Fault Refusal) (s : State cap) :
    Host.Outcome (State cap) Fault Refusal :=
  runInstrs ex (cycleInstrs s.nextCycle) s.beginCycle

/-- A cycle that carries one transaction. -/
def cycleOf : TxWord → Cycle
  | .smp w => { Cycle.idle with smp := some w }
  | .bus w => { Cycle.idle with bus := some w }
  | .pin w => { Cycle.idle with rst := w }

/-- The cycle that carries an opcode-table word; idle where the word has a bit above its format. -/
def cycleOfTableWord (nbits w : Nat) : Cycle :=
  match txOfTableWord nbits w with
  | some t => cycleOf t
  | none => .idle

/-- A byte stream on the sample port, one sample a cycle (R72, R90). -/
def cyclesOfBytes (bs : List Byte) : List Cycle := (samplesOfBytes bs).map fun w => cycleOf (.smp w)

/-- The cycle's transaction stands on the pins of the next cycle, before whatever is queued already. -/
def State.present (c : Cycle) (s : State cap) : State cap := s.setInputs (c :: s.inputs)

end Sys2Proof.Machine
end

