-- ==== Sys2Proof/Machine/Flags.lean ====
section
/-! DEFINITION. The register words a read composes from fields and flags (R39, R40, R49), reserved bits 0 (R52). -/

namespace Sys2Proof.Machine

variable {cap : Nat}

/-- One bit of a register word. -/
def bit (b : Bool) : BitVec 1 := BitVec.ofBool b

/-- CTRL (R39, R210): bits 31:3 read 0, CNT_CLR among them. -/
def ctrlWord (s : State cap) : RegWord := (0 : BitVec 29) ++ bit s.cfg.ie ++ bit s.cfg.afEn ++ bit s.cfg.en

/-- STATUS (R40, R211). -/
def statusWord (s : State cap) : RegWord :=
  (0 : BitVec 24) ++ bit s.edge.primed ++ bit s.edge.prevPol ++ s.flags.lastResult.code ++ bit s.flags.resync
    ++ bit s.flags.overrun ++ bit s.rx.full ++ bit s.dec.sync

/-- DBG (R49, R229). -/
def dbgWord (s : State cap) : RegWord :=
  (0 : BitVec 7) ++ bit s.dec.firstEdge ++ (0 : BitVec 3) ++ s.dec.byteIdx ++ (0 : BitVec 4) ++ s.dec.bitCnt ++ s.dec.acc

/-- A field read as a whole register, zero-extended (R94). -/
def zext32 {n : Nat} (v : BitVec n) : RegWord := v.setWidth 32

end Sys2Proof.Machine
end

