-- ==== Sys2Proof/Machine/Operands.lean ====
section
/-! DEFINITION. Operand assembly (R94): the slice of the write data that each register field takes (R39 to R45), and the bits
a register field is made of. Bits in reserved positions are discarded (R52). No operand is sign-extended, scaled or shifted. -/

namespace Sys2Proof.Machine

/-- Bits of CTRL in the write data (R39, R212). -/
def ctrlEn (d : RegWord) : Bool := d.getLsbD 0
def ctrlAfEn (d : RegWord) : Bool := d.getLsbD 1
def ctrlIe (d : RegWord) : Bool := d.getLsbD 2
def ctrlCntClr (d : RegWord) : Bool := d.getLsbD 3

/-- Bits of STATUS in the write data, write 1 to clear (R40, R213). -/
def statusOverrun (d : RegWord) : Bool := d.getLsbD 2
def statusResync (d : RegWord) : Bool := d.getLsbD 3

/-- SYNC_MIN and BIT_THRESH take `d[15:0]` (R41, R42). -/
def field16 (d : RegWord) : BitVec 16 := d.extractLsb' 0 16

/-- PKT_LEN takes `d[4:0]` (R43). -/
def pktLenField (d : RegWord) : BitVec 5 := d.extractLsb' 0 5

/-- The values of PKT_LEN that a write may store, from 4 to the capacity (R6, R43). -/
def pktLenLegal (cap : Nat) (v : BitVec 5) : Bool := decide (Config.pktLenMin ≤ v.toNat ∧ v.toNat ≤ cap)

/-- CHK_OFFSET takes `d[7:0]` (R44). -/
def chkOffsetField (d : RegWord) : Byte := d.extractLsb' 0 8

/-- ADDR_FILTER takes `d[23:0]` (R45). -/
def addrFilterField (d : RegWord) : BitVec 24 := d.extractLsb' 0 24

/-- The three bytes of ADDR_FILTER, compared with packet bytes 0, 1 and 2 (R45, R163). -/
def filterByte0 (f : BitVec 24) : Byte := f.extractLsb' 16 8
def filterByte1 (f : BitVec 24) : Byte := f.extractLsb' 8 8
def filterByte2 (f : BitVec 24) : Byte := f.extractLsb' 0 8

end Sys2Proof.Machine
end

