-- ==== Sys2Proof/Machine/HostReads.lean ====
section
/-! DEFINITION. The host reads (45_host_registers.md): each composes the register's value from the state and changes nothing
(R200). The write data of a read is ignored (R92). -/

namespace Sys2Proof.Machine

variable {cap : Nat}

/-- RD_CTRL (R210). -/
def execRdCtrl (_ : RegWord) (s : State cap) : Host.Outcome (State cap) Fault Refusal := readReg (ctrlWord s) s

/-- RD_STATUS (R211). -/
def execRdStatus (_ : RegWord) (s : State cap) : Host.Outcome (State cap) Fault Refusal := readReg (statusWord s) s

/-- RD_SYNC_MIN (R214). -/
def execRdSyncMin (_ : RegWord) (s : State cap) : Host.Outcome (State cap) Fault Refusal := readReg (zext32 s.cfg.syncMin) s

/-- RD_BIT_THRESH (R217). -/
def execRdBitThresh (_ : RegWord) (s : State cap) : Host.Outcome (State cap) Fault Refusal := readReg (zext32 s.cfg.bitThresh) s

/-- RD_PKT_LEN (R219). -/
def execRdPktLen (_ : RegWord) (s : State cap) : Host.Outcome (State cap) Fault Refusal := readReg (zext32 s.cfg.pktLen) s

/-- RD_CHK_OFFSET (R221). -/
def execRdChkOffset (_ : RegWord) (s : State cap) : Host.Outcome (State cap) Fault Refusal := readReg (zext32 s.cfg.chkOffset) s

/-- RD_ADDR_FILTER (R223). -/
def execRdAddrFilter (_ : RegWord) (s : State cap) : Host.Outcome (State cap) Fault Refusal := readReg (zext32 s.cfg.addrFilter) s

/-- RD_PKT_TOTAL (R225). -/
def execRdPktTotal (_ : RegWord) (s : State cap) : Host.Outcome (State cap) Fault Refusal := readReg s.cnt.pktTotal s

/-- RD_PKT_CHK_OK (R226). -/
def execRdPktChkOk (_ : RegWord) (s : State cap) : Host.Outcome (State cap) Fault Refusal := readReg s.cnt.pktChkOk s

/-- RD_PKT_ADDR_OK (R227). -/
def execRdPktAddrOk (_ : RegWord) (s : State cap) : Host.Outcome (State cap) Fault Refusal := readReg s.cnt.pktAddrOk s

/-- RD_RX_LEN (R228). -/
def execRdRxLen (_ : RegWord) (s : State cap) : Host.Outcome (State cap) Fault Refusal := readReg (zext32 s.rx.len) s

/-- RD_DBG (R229). -/
def execRdDbg (_ : RegWord) (s : State cap) : Host.Outcome (State cap) Fault Refusal := readReg (dbgWord s) s

/-- RD_RUN_LEN (R230). -/
def execRdRunLen (_ : RegWord) (s : State cap) : Host.Outcome (State cap) Fault Refusal := readReg (zext32 s.edge.runLen) s

/-- RD_RX_BYTE (R231): byte `i` of the receive latch. -/
def execRdRxByte (i : BitVec 4) (_ : RegWord) (s : State cap) : Host.Outcome (State cap) Fault Refusal :=
  readReg (zext32 (s.rx.bytes.byte i.toNat)) s

/-- RD_ZERO (R232): no register, or the write-only RX_POP, or a reserved or misaligned address (R201). -/
def execRdZero (_ : BusAddr) (_ : RegWord) (s : State cap) : Host.Outcome (State cap) Fault Refusal := readReg 0 s

end Sys2Proof.Machine
end

