-- ==== Sys2Proof/Machine/HostWrites.lean ====
section
/-! DEFINITION. The host writes (45_host_registers.md). -/

namespace Sys2Proof.Machine

variable {cap : Nat}

/-- The configuration after a write of CTRL (R212): IE and EN always, AF_EN only if unlocked at the start of the write. -/
def ctrlWritten (d : RegWord) (c : ConfigRegs) : ConfigRegs :=
  { c with en := ctrlEn d, ie := ctrlIe d, afEn := if c.en then c.afEn else ctrlAfEn d }

/-- The counters after a write of CTRL: a 1 in CNT_CLR clears them (R212). -/
def State.clearCounters (d : RegWord) (s : State cap) : State cap := if ctrlCntClr d then s.setCnt .reset else s

/-- EN going from 1 to 0 applies the decoder clear (R212). -/
def State.disableClear (d : RegWord) (s : State cap) : State cap := if s.cfg.en && !ctrlEn d then s.decoderClear else s

/-- WR_CTRL (R212). -/
def execWrCtrl (d : RegWord) (s : State cap) : Host.Outcome (State cap) Fault Refusal :=
  .next (((s.clearCounters d).disableClear d).setCfg (ctrlWritten d s.cfg))

/-- WR_STATUS (R213): writing 1 clears OVERRUN or RESYNC. -/
def execWrStatus (d : RegWord) (s : State cap) : Host.Outcome (State cap) Fault Refusal :=
  .next (s.setFlags { s.flags with
    overrun := s.flags.overrun && !statusOverrun d, resync := s.flags.resync && !statusResync d })

/-- WR_SYNC_MIN (R215). -/
def execWrSyncMin (d : RegWord) (s : State cap) : Host.Outcome (State cap) Fault Refusal :=
  .next (writeUnlocked (fun c => { c with syncMin := field16 d }) s)

/-- WR_BIT_THRESH (R218). -/
def execWrBitThresh (d : RegWord) (s : State cap) : Host.Outcome (State cap) Fault Refusal :=
  .next (writeUnlocked (fun c => { c with bitThresh := field16 d }) s)

/-- PKT_LEN takes only a legal value (R43). -/
def pktLenWritten (cap : Nat) (d : RegWord) (c : ConfigRegs) : ConfigRegs :=
  if pktLenLegal cap (pktLenField d) then { c with pktLen := pktLenField d } else c

/-- WR_PKT_LEN (R220). -/
def execWrPktLen (d : RegWord) (s : State cap) : Host.Outcome (State cap) Fault Refusal :=
  .next (writeUnlocked (pktLenWritten cap d) s)

/-- WR_CHK_OFFSET (R222). -/
def execWrChkOffset (d : RegWord) (s : State cap) : Host.Outcome (State cap) Fault Refusal :=
  .next (writeUnlocked (fun c => { c with chkOffset := chkOffsetField d }) s)

/-- WR_ADDR_FILTER (R224). -/
def execWrAddrFilter (d : RegWord) (s : State cap) : Host.Outcome (State cap) Fault Refusal :=
  .next (writeUnlocked (fun c => { c with addrFilter := addrFilterField d }) s)

/-- WR_RX_POP (R216): the latch is released, its bytes and length keep their values. -/
def execWrRxPop (_ : RegWord) (s : State cap) : Host.Outcome (State cap) Fault Refusal :=
  .next (s.setRx { s.rx with full := false })

/-- WR_IGNORED (R233): no effect. -/
def execWrIgnored (_ : BusAddr) (_ : RegWord) (s : State cap) : Host.Outcome (State cap) Fault Refusal := .next s

end Sys2Proof.Machine
end

