-- ==== Sys2Proof/Machine/ResetPin.lean ====
section
/-! DEFINITION. The reset pin (R400). -/

namespace Sys2Proof.Machine

variable {cap : Nat}

/-- RST (R400). -/
def execRst (s : State cap) : Host.Outcome (State cap) Fault Refusal := .next s.resetAll

end Sys2Proof.Machine
end

