-- ==== Sys2Proof/Machine/EdgeDetector.lean ====
section
/-! DEFINITION. The first stage: polarity (R100), run length (R104) and EdgeStep (R102). -/

namespace Sys2Proof.Machine

/-- The kind of an edge event (R102, R103). -/
inductive EdgeKind where
  | none
  | rising
  | falling
  deriving DecidableEq, Repr

/-- An edge event with the width of the run just ended (R103). -/
structure EdgeEvent where
  kind  : EdgeKind
  width : BitVec 16
  deriving DecidableEq, Repr

/-- No edge: the pair (NONE, 0) of R102. -/
def EdgeEvent.quiet : EdgeEvent := { kind := .none, width := 0 }

/-- The polarity of a sample (R100): high when bit 15 is 0. The sample 0x0000 is high by the parameter of decision D3. -/
def polarity (w : SampleWord) : Bool := if w = 0 then Config.zeroIsHigh else !smpSign w

/-- `sat16(r + 1)` (R9, R104). -/
def satSucc (r : BitVec 16) : BitVec 16 := BitVec.ofNat 16 (min (r.toNat + 1) Config.runLenMax)

/-- EdgeStep (R102). -/
def edgeStep (pol : Bool) (e : EdgeState) : EdgeState × EdgeEvent :=
  if !e.primed then ({ primed := true, prevPol := pol, runLen := 1 }, .quiet)
  else if pol != e.prevPol then
    ({ e with prevPol := pol, runLen := 1 }, { kind := if pol then .rising else .falling, width := e.runLen })
  else ({ e with runLen := satSucc e.runLen }, .quiet)

end Sys2Proof.Machine
end

