-- ==== Sys2Proof/Machine/Validator.lean ====
section
/-! DEFINITION. The last stage: Validate (R160 to R169), run once for each completed packet. -/

namespace Sys2Proof.Machine

variable {cap : Nat}

/-- The sum of the first `n` bytes modulo 256 (R161). -/
def byteSum (b : Buffer cap) : Nat → Byte
  | 0 => 0
  | n + 1 => byteSum b n + b.byte n

/-- The checksum comparison of a packet of `l` bytes (R161, R162): the last byte equals the sum of the bytes before it plus
the offset, modulo 256. -/
def chkOk (b : Buffer cap) (l : Nat) (offset : Byte) : Bool := b.byte (l - 1) == byteSum b (l - 1) + offset

/-- The address match (R163). -/
def addrMatch (b : Buffer cap) (filter : BitVec 24) : Bool :=
  b.byte 0 == filterByte0 filter && b.byte 1 == filterByte1 filter && b.byte 2 == filterByte2 filter

/-- Acceptance (R164). -/
def accepts (ok afEn hit : Bool) : Bool := ok && (!afEn || hit)

/-- The result code (R166, R301). -/
def verdict (ok acc : Bool) : Verdict := if acc then .accepted else if ok then .addrMismatch else .chkFailed

/-- A counter event, modulo 2^32 (R165). -/
def countIf (c : Bool) (n : BitVec 32) : BitVec 32 := if c then n + 1 else n

/-- The counters after a packet (R165). -/
def countPacket (ok acc : Bool) (c : Counters) : Counters :=
  { pktTotal := countIf true c.pktTotal, pktChkOk := countIf ok c.pktChkOk, pktAddrOk := countIf acc c.pktAddrOk }

/-- The receive latch after a packet of length `l` (R167): an accepted packet is copied if the latch is empty. -/
def latchPacket (acc : Bool) (b : Buffer cap) (l : BitVec 5) (r : RxLatch cap) : RxLatch cap :=
  if acc && !r.full then { bytes := b.first l.toNat, len := l, full := true } else r

/-- The bytes of a buffer from index 0 on, byte `i` in bits `8i+7:8i` (R90). -/
def packBytes (b : Buffer cap) : (n : Nat) → BitVec (8 * n)
  | 0 => 0
  | n + 1 => (b.byte n ++ packBytes b n).cast (by omega)

/-- The frame event of a packet of length `l` (R168): byte `i` in bits `8i+7:8i` for `i < l`, zeros above. -/
def frameOf (v : Verdict) (b : Buffer cap) (l : BitVec 5) : FramePort cap :=
  { valid := true, result := v.code, len := l, data := packBytes (b.first l.toNat) cap }

/-- Validate (R160). -/
def validate (s : State cap) : State cap :=
  let l := s.cfg.pktLen
  let ok := chkOk s.buf l.toNat s.cfg.chkOffset
  let acc := accepts ok s.cfg.afEn (addrMatch s.buf s.cfg.addrFilter)
  let v := verdict ok acc
  (((s.setCnt (countPacket ok acc s.cnt)).setFlags
    { s.flags with lastResult := v, overrun := s.flags.overrun || (acc && s.rx.full) }).setRx
      (latchPacket acc s.buf l s.rx)).setFrm (frameOf v s.buf l)

end Sys2Proof.Machine
end

