-- ==== Sys2Proof/Machine/BitRecovery.lean ====
section
/-! DEFINITION. The third and fourth stages: BitStep, the classifier and the byte and packet assembler (R140 to R147). -/

namespace Sys2Proof.Machine

variable {cap : Nat}

/-- The bit of a pulse: 1 at or above the threshold, compared unsigned (R142). -/
def classify (width thresh : BitVec 16) : Bool := decide (thresh.toNat ≤ width.toNat)

/-- A bit enters the accumulator at bit 0 (R143). -/
def shiftIn (acc : Byte) (b : Bool) : Byte := acc.extractLsb' 0 7 ++ BitVec.ofBool b

/-- Packet completion (R145): Validate, and the decoder waits for the next sync. -/
def completePacket (s : State cap) : State cap :=
  let t := validate s
  t.setDec { t.dec with sync := false, firstEdge := true, byteIdx := 0 }

/-- Byte commit (R144), and packet completion when the byte was the last (R145). -/
def commitByte (s : State cap) : State cap :=
  let t := (s.setBuf (s.buf.put s.dec.byteIdx.toNat s.dec.acc)).setDec
    { s.dec with byteIdx := s.dec.byteIdx + 1, bitCnt := 0, acc := 0x00 }
  if t.dec.byteIdx = t.cfg.pktLen then completePacket t else t

/-- A data bit enters the assembler (R143, R144). -/
def takeBit (b : Bool) (s : State cap) : State cap :=
  let t := s.setDec { s.dec with acc := shiftIn s.dec.acc b, bitCnt := s.dec.bitCnt + 1 }
  if t.dec.bitCnt = 8 then commitByte t else t

/-- BitStep (R140): only a falling edge while synchronised has an effect (R146), and the first one is discarded (R141). -/
def bitStep (ev : EdgeEvent) (s : State cap) : State cap :=
  if ev.kind != .falling || !s.dec.sync then s
  else if s.dec.firstEdge then s.setDec { s.dec with firstEdge := false }
  else takeBit (classify ev.width s.cfg.bitThresh) s

end Sys2Proof.Machine
end

