-- ==== Sys2Proof/Machine/SyncAcquirer.lean ====
section
/-! DEFINITION. The second stage: SyncStep (R120 to R125). -/

namespace Sys2Proof.Machine

variable {cap : Nat}

/-- A sync pulse is recognised in this sample: the run is high and has reached SYNC_MIN, compared unsigned (R120). -/
def syncFound (pol : Bool) (s : State cap) : Bool := pol && decide (s.cfg.syncMin.toNat ≤ s.edge.runLen.toNat)

/-- A packet is in progress (R122). -/
def packetInProgress (s : State cap) : Bool := s.dec.sync && !s.dec.firstEdge

/-- The decoder state that acquisition leaves (R120). -/
def DecoderState.acquired : DecoderState := { sync := true, firstEdge := true, bitCnt := 0, acc := 0x00, byteIdx := 0 }

/-- SyncStep (R120). -/
def syncStep (pol : Bool) (s : State cap) : State cap :=
  if syncFound pol s then
    (s.setFlags { s.flags with resync := s.flags.resync || packetInProgress s }).setDec .acquired
  else s

end Sys2Proof.Machine
end

