-- ==== Sys2Proof/Machine/Samples.lean ====
section
/-! DEFINITION. SampleStep (R105) and the two sample opcodes (R106, R107). -/

namespace Sys2Proof.Machine

variable {cap : Nat}

/-- SampleStep for a polarity (R101, R105): EdgeStep, then SyncStep, then BitStep; nothing while CTRL.EN = 0. -/
def polarityStep (pol : Bool) (s : State cap) : State cap :=
  if !s.cfg.en then s
  else
    let r := edgeStep pol s.edge
    bitStep r.2 (syncStep pol (s.setEdge r.1))

/-- SampleStep (R105). -/
def sampleStep (w : SampleWord) (s : State cap) : State cap := polarityStep (polarity w) s

/-- SMP_HI (R106). -/
def execSmpHi (m : BitVec 15) (s : State cap) : Host.Outcome (State cap) Fault Refusal := .next (sampleStep (smpWord 0 m) s)

/-- SMP_LO (R107). -/
def execSmpLo (m : BitVec 15) (s : State cap) : Host.Outcome (State cap) Fault Refusal := .next (sampleStep (smpWord 1 m) s)

end Sys2Proof.Machine
end

