-- ==== Sys2Proof/Machine/Dispatch.lean ====
section
/-! DEFINITION. The dispatch: one arm for each instruction (R95). -/

namespace Sys2Proof.Machine

def exec (i : Instr) (s : State) : Host.Outcome State Fault Refusal :=
  match i with
  | .smpHi m => Sys2Proof.Machine.execSmpHi m s
  | .smpLo m => Sys2Proof.Machine.execSmpLo m s
  | .rdCtrl d => Sys2Proof.Machine.execRdCtrl d s
  | .wrCtrl d => Sys2Proof.Machine.execWrCtrl d s
  | .rdStatus d => Sys2Proof.Machine.execRdStatus d s
  | .wrStatus d => Sys2Proof.Machine.execWrStatus d s
  | .rdSyncMin d => Sys2Proof.Machine.execRdSyncMin d s
  | .wrSyncMin d => Sys2Proof.Machine.execWrSyncMin d s
  | .rdBitThresh d => Sys2Proof.Machine.execRdBitThresh d s
  | .wrBitThresh d => Sys2Proof.Machine.execWrBitThresh d s
  | .rdPktLen d => Sys2Proof.Machine.execRdPktLen d s
  | .wrPktLen d => Sys2Proof.Machine.execWrPktLen d s
  | .rdChkOffset d => Sys2Proof.Machine.execRdChkOffset d s
  | .wrChkOffset d => Sys2Proof.Machine.execWrChkOffset d s
  | .rdAddrFilter d => Sys2Proof.Machine.execRdAddrFilter d s
  | .wrAddrFilter d => Sys2Proof.Machine.execWrAddrFilter d s
  | .rdPktTotal d => Sys2Proof.Machine.execRdPktTotal d s
  | .rdPktChkOk d => Sys2Proof.Machine.execRdPktChkOk d s
  | .rdPktAddrOk d => Sys2Proof.Machine.execRdPktAddrOk d s
  | .wrRxPop d => Sys2Proof.Machine.execWrRxPop d s
  | .rdRxLen d => Sys2Proof.Machine.execRdRxLen d s
  | .rdDbg d => Sys2Proof.Machine.execRdDbg d s
  | .rdRunLen d => Sys2Proof.Machine.execRdRunLen d s
  | .rdRxByte k d => Sys2Proof.Machine.execRdRxByte k d s
  | .rdZero a d => Sys2Proof.Machine.execRdZero a d s
  | .wrIgnored a d => Sys2Proof.Machine.execWrIgnored a d s
  | .rst => Sys2Proof.Machine.execRst s

end Sys2Proof.Machine
end

