-- ==== Sys2Proof/Machine/Step.lean ====
section
/-! DEFINITION. One step is one clock cycle (R81). -/

namespace Sys2Proof.Machine

/-- One clock cycle (R81). -/
def step (s : State) : Host.Outcome State Fault Refusal := runCycle exec s

/-- The state with the word of an opcode-table row on the pins of the next cycle (notes/assumptions/1.md). -/
def State.withFetchWord (s : State) (nbits w : Nat) : State := s.present (cycleOfTableWord nbits w)

end Sys2Proof.Machine
end

