-- ==== Sys2Proof/Machine/Capacity.lean ====
section
/-! DEFINITION. The machine of every packet buffer capacity, the model parameter CAP of R6: dispatch, step and the machine
with its reset. This hardware's exec, step and core are these at Config.CAP (notes/assumptions/7.md). -/

namespace Sys2Proof.Machine

variable {cap : Nat}

/-- The dispatch at every capacity: the meanings that exec calls. -/
def execAt (i : Instr) (s : State cap) : Host.Outcome (State cap) Fault Refusal :=
  match i with
  | .smpHi m => execSmpHi m s
  | .smpLo m => execSmpLo m s
  | .rdCtrl d => execRdCtrl d s
  | .wrCtrl d => execWrCtrl d s
  | .rdStatus d => execRdStatus d s
  | .wrStatus d => execWrStatus d s
  | .rdSyncMin d => execRdSyncMin d s
  | .wrSyncMin d => execWrSyncMin d s
  | .rdBitThresh d => execRdBitThresh d s
  | .wrBitThresh d => execWrBitThresh d s
  | .rdPktLen d => execRdPktLen d s
  | .wrPktLen d => execWrPktLen d s
  | .rdChkOffset d => execRdChkOffset d s
  | .wrChkOffset d => execWrChkOffset d s
  | .rdAddrFilter d => execRdAddrFilter d s
  | .wrAddrFilter d => execWrAddrFilter d s
  | .rdPktTotal d => execRdPktTotal d s
  | .rdPktChkOk d => execRdPktChkOk d s
  | .rdPktAddrOk d => execRdPktAddrOk d s
  | .wrRxPop d => execWrRxPop d s
  | .rdRxLen d => execRdRxLen d s
  | .rdDbg d => execRdDbg d s
  | .rdRunLen d => execRdRunLen d s
  | .rdRxByte k d => execRdRxByte k d s
  | .rdZero a d => execRdZero a d s
  | .wrIgnored a d => execWrIgnored a d s
  | .rst => execRst s

/-- One clock cycle at every capacity (R81). -/
def stepAt (s : State cap) : Host.Outcome (State cap) Fault Refusal := runCycle execAt s

/-- The machine with a packet buffer of `cap` bytes. -/
def coreAt (cap : Nat) : Host.Core :=
  { State := State cap, Fault := Fault, Refusal := Refusal, step := stepAt, reset := State.resetOf cap }

end Sys2Proof.Machine
end

