-- ==== Sys2Proof/Safety.lean ====
section
/-! DEFINITION. What a sound state is (the invariants of R55, what R33 says of the receive latch), and the words in which
statements about the machine are said: the bit and the byte a falling edge gives, what the frame consumer and the host can
observe, and the sample streams of R99. -/

namespace Sys2Proof.Machine

variable {cap : Nat}

/-- R55 item 1: a disabled decoder holds the values of the decoder clear. -/
abbrev DisabledIsClear (s : State cap) : Prop := s.cfg.en = false → s.edge = EdgeState.reset ∧ s.dec = DecoderState.reset

/-- R55 item 2: the run length is 0 exactly while the edge detector is not primed. -/
abbrev RunLenPrimed (s : State cap) : Prop := s.edge.primed = true ↔ 1 ≤ s.edge.runLen.toNat

/-- R55 item 3: without sync the per-packet state is at its reset values. -/
abbrev UnsyncedIsClear (s : State cap) : Prop :=
  s.dec.sync = false → s.dec.firstEdge = true ∧ s.dec.bitCnt = 0 ∧ s.dec.acc = 0 ∧ s.dec.byteIdx = 0

/-- R55 item 4: at most seven bits are in the accumulator, and no more than the bit count says. -/
abbrev AccHoldsBits (s : State cap) : Prop := s.dec.bitCnt.toNat ≤ 7 ∧ s.dec.acc.toNat < 2 ^ s.dec.bitCnt.toNat

/-- R55 item 5 and R43: the byte index is below the packet length, which is legal (R6: from 4 to the capacity). -/
abbrev IndexInPacket (s : State cap) : Prop :=
  s.dec.byteIdx.toNat < s.cfg.pktLen.toNat ∧ 4 ≤ s.cfg.pktLen.toNat ∧ s.cfg.pktLen.toNat ≤ cap

/-- R55 item 6: before the preamble's edge no bit and no byte has been taken. -/
abbrev FirstEdgeIsClear (s : State cap) : Prop := s.dec.firstEdge = true → s.dec.bitCnt = 0 ∧ s.dec.byteIdx = 0

/-- R33: the latch is 0x00 at and above its length. -/
abbrev LatchPadded (s : State cap) : Prop := ∀ i : Fin cap, s.rx.len.toNat ≤ i.val → s.rx.bytes.byte i.val = 0x00

/-- The invariants of R55, items 1 to 6, at a transaction boundary. -/
abbrev DecoderInv (s : State cap) : Prop :=
  DisabledIsClear s ∧ RunLenPrimed s ∧ UnsyncedIsClear s ∧ AccHoldsBits s ∧ IndexInPacket s ∧ FirstEdgeIsClear s

/-- R55 item 7: each counter counts a part of what the counter before it counts. -/
abbrev CountersNested (s : State cap) : Prop :=
  s.cnt.pktAddrOk.toNat ≤ s.cnt.pktChkOk.toNat ∧ s.cnt.pktChkOk.toNat ≤ s.cnt.pktTotal.toNat

/-! ## Falling edges -/

/-- The next low sample ends a high run of an enabled decoder: it is a falling edge (R102). -/
abbrev AfterHigh (s : State cap) : Prop := s.cfg.en = true ∧ s.edge.primed = true ∧ s.edge.prevPol = true

/-- The next low sample gives a data bit: a falling edge while synchronised, after the first (R142). -/
abbrev DataEdge (s : State cap) : Prop := AfterHigh s ∧ s.dec.sync = true ∧ s.dec.firstEdge = false

/-- The next low sample gives the eighth bit of a byte whose index is in the buffer (R144). -/
abbrev ByteEdge (s : State cap) : Prop := DataEdge s ∧ s.dec.bitCnt = 7 ∧ s.dec.byteIdx.toNat < cap

/-- The next low sample completes a packet (R145). -/
abbrev PacketEdge (s : State cap) : Prop := ByteEdge s ∧ s.dec.byteIdx.toNat + 1 = s.cfg.pktLen.toNat

/-- The edge-detector state of a low sample that starts a low run (R102). -/
def lowRunStarted : EdgeState := { primed := true, prevPol := false, runLen := 1 }

/-- The byte the accumulator holds once the pulse just ended has given its bit, as a number (R142, R143). -/
def byteWithBit (s : State cap) : Nat :=
  (2 * s.dec.acc.toNat + if s.cfg.bitThresh.toNat ≤ s.edge.runLen.toNat then 1 else 0) % 256

/-- The packet of `n` bytes that the eighth bit completes: the bytes committed before and the one just made (R144, R145). -/
def packetByte (s : State cap) (i : Nat) : Nat := if i = s.dec.byteIdx.toNat then byteWithBit s else (s.buf.byte i).toNat

/-- The checksum comparison of the completed packet, in numbers (R161, R162). -/
def packetChecks (s : State cap) : Bool :=
  ((∑ i ∈ Finset.range (s.cfg.pktLen.toNat - 1), packetByte s i) + s.cfg.chkOffset.toNat) % 256
    == packetByte s (s.cfg.pktLen.toNat - 1)

/-- The address comparison of the completed packet, in numbers (R163): bytes 0, 1, 2 against ADDR_FILTER from its top. -/
def packetMatches (s : State cap) : Bool :=
  packetByte s 0 * 65536 + packetByte s 1 * 256 + packetByte s 2 == s.cfg.addrFilter.toNat

/-- The completed packet is accepted (R164). -/
def packetIsOurs (s : State cap) : Bool := packetChecks s && (!s.cfg.afEn || packetMatches s)

/-! ## Observation -/

/-- Two states that differ at most in the buffer, and there only in bytes the packet in progress has not written (R31). -/
abbrev SameButUnwritten (s t : State cap) : Prop :=
  t = { s with buf := t.buf } ∧ ∀ i, i < s.dec.byteIdx.toNat → t.buf.byte i = s.buf.byte i

/-- With SYNC_MIN 0 or 1 no data bit is ever due (R124 item 1). -/
abbrev NoBitDue (s : State cap) : Prop :=
  s.cfg.syncMin.toNat ≤ 1 ∧ s.dec.bitCnt = 0 ∧ s.dec.byteIdx = 0 ∧
    (s.dec.sync = true → s.dec.firstEdge = false → s.edge.prevPol = false)

/-! ## Sample streams (R99) -/

/-- `SMP 0x0001` and `SMP 0xFFFF` stand for any high and any low sample (R99). -/
def highSample : SampleWord := 0x0001
def lowSample : SampleWord := 0xFFFF

/-- `HI h` and then `LO l` (R99). -/
def pulse (h l : Nat) : List SampleWord := List.replicate h highSample ++ List.replicate l lowSample

/-- `BYTE b`, most significant bit first, a bit 0 of high width `w0` and a bit 1 of high width `w1` (R99). -/
def byteSamples (w0 w1 l : Nat) (b : Byte) : List SampleWord :=
  [7, 6, 5, 4, 3, 2, 1, 0].flatMap fun k => pulse (if b.getLsbD k then w1 else w0) l

/-- `PKT`: the preamble and the bytes (R99). -/
def packetSamples (h lp w0 w1 l : Nat) (bs : List Byte) : List SampleWord :=
  pulse h lp ++ bs.flatMap (byteSamples w0 w1 l)

/-- One sample a cycle (R90). -/
def sampleCycles (ws : List SampleWord) : List Cycle := ws.map fun w => cycleOf (.smp w)

/-- The state with samples on the pins of the coming cycles. -/
def State.feeding (s : State cap) (ws : List SampleWord) : State cap := { s with inputs := sampleCycles ws ++ s.inputs }

end Sys2Proof.Machine
end

