-- ==== Sys2Proof/Certificates/Slice0/Obligations.lean ====
section
/-! DEFINITION. The statements for the provers: each formalises what the spec's rules say the machine does. -/

open Sys2Proof Sys2Proof.Machine

/-- R91, R92, R93, R95: no bit of a transaction word is dropped between encoder and decoder. -/
def Obligations.DecodeEncodeRoundTrip : Prop :=
  ∀ i : Instr, i.wf = true → decode (encode i) = .ok i

/-- R93, R96: no encoding is illegal. -/
def Obligations.EveryWordIsATransaction : Prop :=
  (∀ w : SampleWord, ∃ i, decode (.smp w) = .ok i) ∧ (∀ w : BusWord, ∃ i, decode (.bus w) = .ok i) ∧
    (∀ w : PinWord, (∃ i, decode (.pin w) = .ok i) ↔ w = 1) ∧
    ∀ (t : TxWord) (i : Instr), decode t = .ok i → i.wf = true ∧ encode i = t

/-- R95: the rows of `opcodeRows` are the map's, match and mask. -/
def Obligations.DecoderFollowsOpcodeMap : Prop :=
  (∀ t : TxWord, (firstRow t).map OpRow.opcode = match decode t with
      | .ok i => some i.opcode
      | .error _ => none) ∧
    (∀ (a : BusAddr) (d : RegWord), (decodeBus (busWord 0 a d)).opcode = .rdRxByte ↔ 0x40 ≤ a.toNat ∧ a.toNat ≤ 0x7C ∧ a.toNat % 4 = 0) ∧
    (∀ (a : BusAddr) (d : RegWord), (decodeBus (busWord 0 a d)).opcode = .rdZero ↔
      a = 0x28 ∨ a = 0x38 ∨ a = 0x3C ∨ 0x80 ≤ a.toNat ∨ a.toNat % 4 ≠ 0) ∧
    (∀ (a : BusAddr) (d : RegWord), (decodeBus (busWord 1 a d)).opcode = .wrIgnored ↔
      (0x1C ≤ a.toNat ∧ a ≠ 0x28) ∨ a.toNat % 4 ≠ 0)

/-- All 24 words of the table of encodings at the head of 95_test_vectors.md. -/
def Obligations.SpecWordsDecode : Prop :=
  decodeSmp 0x0001 = .smpHi 0x0001 ∧ decodeSmp 0xFFFF = .smpLo 0x7FFF ∧
    decodeBus 0x10000000000 = .wrCtrl 0x0 ∧ decodeBus 0x10000000001 = .wrCtrl 0x1 ∧
    decodeBus 0x10000000003 = .wrCtrl 0x3 ∧ decodeBus 0x10C00000002 = .wrBitThresh 2 ∧
    decodeBus 0x11000000004 = .wrPktLen 4 ∧ decodeBus 0x11000000008 = .wrPktLen 8 ∧
    decodeBus 0x11800123456 = .wrAddrFilter 0x123456 ∧
    decodeBus 0x10000000007 = .wrCtrl 0x7 ∧ decodeBus 0x1040000000C = .wrStatus 0xC ∧
    decodeBus 0x10800000003 = .wrSyncMin 3 ∧ decodeBus 0x10C00000014 = .wrBitThresh 20 ∧
    decodeBus 0x11000000009 = .wrPktLen 9 ∧ decodeBus 0x11400000001 = .wrChkOffset 1 ∧
    decodeBus 0x11800ABCDEF = .wrAddrFilter 0xABCDEF ∧ decodeBus 0x12800000000 = .wrRxPop 0 ∧
    decodeBus 0x00400000000 = .rdStatus 0 ∧ decodeBus 0x01C00000000 = .rdPktTotal 0 ∧
    decodeBus 0x02C00000000 = .rdRxLen 0 ∧ decodeBus 0x03000000000 = .rdDbg 0 ∧
    decodeBus 0x04000000000 = .rdRxByte 0 0 ∧ decodeBus 0x05C00000000 = .rdRxByte 7 0 ∧
    decode (.pin 0x1) = .ok .rst

/-- R72: low byte first, and an unpaired last byte forms no sample. -/
def Obligations.SampleStreamIsLittleEndian : Prop :=
  ∀ bs : List Byte, (cyclesOfBytes bs).length = bs.length / 2 ∧
    ∀ k, k < bs.length / 2 →
      (cyclesOfBytes bs)[k]? = some { rst := 0, bus := none, smp := some (bs.getD (2 * k + 1) 0 ++ bs.getD (2 * k) 0) } ∧
      polarity (bs.getD (2 * k + 1) 0 ++ bs.getD (2 * k) 0) = !(bs.getD (2 * k + 1) 0).getLsbD 7

/-- R81, R97. What step adds around exec: the frame port is idle (R168, held in the state by notes/assumptions/4.md). That the cycle leaves the queue `inputs` (notes/assumptions/1.md) and that `busRdata` is none before a read (notes/assumptions/4.md) is the model's choice (DESIGN CHOICE), no rule of the spec. -/
def Obligations.StepRunsTheDecodedInstruction : Prop :=
  ∀ (t : TxWord) (i : Instr) (rest : List Cycle) (s : State), decode t = .ok i →
    step { s with inputs := cycleOf t :: rest } =
      exec i { s with inputs := rest, busRdata := none, frm := { valid := false, result := 0, len := 0, data := 0 } }

/-- R81's order, R408 for the idle cycle, R168 for the idle frame port. The state `s₀` at the start of a cycle is the model's choice (DESIGN CHOICE): the cycle leaves the queue `inputs` (notes/assumptions/1.md), and `busRdata` and `frm` are held in the state, none and idle then (notes/assumptions/4.md). -/
def Obligations.CycleOrder : Prop :=
  ∀ (c : Cycle) (rest : List Cycle) (s : State),
    let s₀ : State := { s with inputs := rest, busRdata := none, frm := { valid := false, result := 0, len := 0, data := 0 } }
    let after := step { s with inputs := c :: rest }
    (c.rst = 1 → after = exec .rst s₀) ∧
    (c.rst = 0 → c.bus = none → c.smp = none → after = .next s₀) ∧
    (∀ b, c.rst = 0 → c.bus = some b → c.smp = none → after = exec (decodeBus b) s₀) ∧
    (∀ x, c.rst = 0 → c.bus = none → c.smp = some x → after = exec (decodeSmp x) s₀) ∧
    (∀ b x, c.rst = 0 → c.bus = some b → c.smp = some x →
      ∃ t, exec (decodeBus b) s₀ = .next t ∧ after = exec (decodeSmp x) t)

/-- R300. -/
def Obligations.NoTransactionStops : Prop :=
  (∀ (i : Instr) (s : State), ∃ t, exec i s = .next t) ∧ ∀ s : State, ∃ t, step s = .next t

/-- R101. -/
def Obligations.DisabledSampleIsLost : Prop :=
  ∀ (w : SampleWord) (s : State), s.cfg.en = false → exec (decodeSmp w) s = .next s

/-- R91, R100: only bit 15 has any effect. -/
def Obligations.OnlyTheSignBitMatters : Prop :=
  ∀ (w w' : SampleWord) (s : State), w.getLsbD 15 = w'.getLsbD 15 →
    exec (decodeSmp w) s = exec (decodeSmp w') s

/-- R106, with EdgeStep (R102), saturation (R104) and SyncStep (R120, R122). -/
def Obligations.HighSampleStep : Prop :=
  ∀ (w : SampleWord) (s : State), w &&& 0x8000 = 0x0000 →
    decodeSmp w = .smpHi (w.setWidth 15) ∧
    (s.cfg.en = false → exec (.smpHi (w.setWidth 15)) s = .next s) ∧
    (s.cfg.en = true → ∃ run : BitVec 16,
      run.toNat = (if s.edge.primed = true ∧ s.edge.prevPol = true then min (s.edge.runLen.toNat + 1) 0xFFFF else 1) ∧
      (s.cfg.syncMin.toNat ≤ run.toNat → exec (.smpHi (w.setWidth 15)) s =
        .next { s with edge := { primed := true, prevPol := true, runLen := run },
                       dec := { sync := true, firstEdge := true, bitCnt := 0, acc := 0, byteIdx := 0 },
                       flags := { s.flags with resync := s.flags.resync || (s.dec.sync && !s.dec.firstEdge) } }) ∧
      (run.toNat < s.cfg.syncMin.toNat → exec (.smpHi (w.setWidth 15)) s =
        .next { s with edge := { primed := true, prevPol := true, runLen := run } }))

/-- R146: BitStep has no effect without a falling edge or without sync; the run length is R102's. -/
def Obligations.LowSampleWithoutEffectOnDecoder : Prop :=
  ∀ (m : BitVec 15) (s : State), s.cfg.en = true →
    (s.edge.primed = false → exec (.smpLo m) s = .next { s with edge := lowRunStarted }) ∧
    (s.edge.primed = true → s.edge.prevPol = true → s.dec.sync = false →
      exec (.smpLo m) s = .next { s with edge := lowRunStarted }) ∧
    (s.edge.primed = true → s.edge.prevPol = false → ∃ run : BitVec 16,
      run.toNat = min (s.edge.runLen.toNat + 1) 0xFFFF ∧
      exec (.smpLo m) s = .next { s with edge := { primed := true, prevPol := false, runLen := run } })

/-- R141. -/
def Obligations.FirstFallingEdgeDiscarded : Prop :=
  ∀ (m : BitVec 15) (s : State), AfterHigh s → s.dec.sync = true → s.dec.firstEdge = true →
    exec (.smpLo m) s = .next { s with edge := lowRunStarted, dec := { s.dec with firstEdge := false } }

/-- R142 with the shift of R143. -/
def Obligations.DataBitShiftedIn : Prop :=
  ∀ (m : BitVec 15) (s : State), DataEdge s → s.dec.bitCnt.toNat < 7 →
    exec (.smpLo m) s = .next { s with
      edge := lowRunStarted,
      dec := { s.dec with acc := BitVec.ofNat 8 (byteWithBit s), bitCnt := s.dec.bitCnt + 1 } }

/-- R144. The index is in the buffer by R55 item 5. -/
def Obligations.EighthBitCommitsByte : Prop :=
  ∀ (m : BitVec 15) (s : State), ByteEdge s → s.dec.byteIdx.toNat + 1 ≠ s.cfg.pktLen.toNat →
    ∃ b : Buffer, (∀ i, i < 16 → (b.byte i).toNat = packetByte s i) ∧
      exec (.smpLo m) s = .next { s with
        edge := lowRunStarted, buf := b,
        dec := { s.dec with bitCnt := 0, acc := 0, byteIdx := s.dec.byteIdx + 1 } }

/-- R145 with R161 to R166; the numbers are those of `packetChecks` and `packetIsOurs`. -/
def Obligations.PacketCompletionVerdict : Prop :=
  ∀ (m : BitVec 15) (s : State), PacketEdge s → ∃ t, exec (.smpLo m) s = .next t ∧
    t.edge = lowRunStarted ∧
    t.dec = { sync := false, firstEdge := true, bitCnt := 0, acc := 0, byteIdx := 0 } ∧
    (∀ i, i < 16 → (t.buf.byte i).toNat = packetByte s i) ∧
    t.cnt = { pktTotal := s.cnt.pktTotal + 1,
              pktChkOk := if packetChecks s then s.cnt.pktChkOk + 1 else s.cnt.pktChkOk,
              pktAddrOk := if packetIsOurs s then s.cnt.pktAddrOk + 1 else s.cnt.pktAddrOk } ∧
    t.flags.lastResult.code = (if packetIsOurs s then 1 else if packetChecks s then 3 else 2) ∧
    t.flags.overrun = (s.flags.overrun || (packetIsOurs s && s.rx.full)) ∧
    t.flags.resync = s.flags.resync ∧ t.cfg = s.cfg ∧ t.busRdata = s.busRdata ∧ t.inputs = s.inputs ∧
    t.freeCount = s.freeCount

/-- R167. -/
def Obligations.AcceptedPacketLatched : Prop :=
  ∀ (m : BitVec 15) (s : State), PacketEdge s → ∃ t, exec (.smpLo m) s = .next t ∧
    (packetIsOurs s = true → s.rx.full = false →
      t.rx.full = true ∧ t.rx.len = s.cfg.pktLen ∧
      ∀ i, i < 16 → (t.rx.bytes.byte i).toNat = if i < s.cfg.pktLen.toNat then packetByte s i else 0) ∧
    (packetIsOurs s = true → s.rx.full = true → t.rx = s.rx ∧ t.flags.overrun = true) ∧
    (packetIsOurs s = false → t.rx = s.rx ∧ t.flags.overrun = s.flags.overrun) ∧
    t.cnt.pktTotal = s.cnt.pktTotal + 1 ∧ t.frm.valid = true

/-- R168: the frame event of one packet. That it lasts one cycle is FramePortDrivenForOneCycle. -/
def Obligations.CompletedPacketFramed : Prop :=
  ∀ (m : BitVec 15) (s : State), PacketEdge s → ∃ t, exec (.smpLo m) s = .next t ∧
    t.frm.valid = true ∧
    t.frm.result = (if packetIsOurs s then 1 else if packetChecks s then 3 else 2) ∧
    t.frm.len = s.cfg.pktLen ∧
    ∀ i, i < 16 → t.frm.data.toNat / 2 ^ (8 * i) % 256 = if i < s.cfg.pktLen.toNat then packetByte s i else 0

/-- R168: in every other cycle frm_valid = 0 and the other frame outputs are 0. `u` is the state the sample sees (R81), and a packet is completed there by R144 and R145. How a cycle starts is the model's choice (notes/assumptions/1.md and 4.md). -/
def Obligations.FramePortDrivenForOneCycle : Prop :=
  ∀ s t : State, step s = .next t →
    (t.frm = { valid := false, result := 0, len := 0, data := 0 } ∧
      (t.cnt = s.cnt ∨ t.cnt = { pktTotal := 0, pktChkOk := 0, pktAddrOk := 0 }) ∧ (t.rx.full = true → t.rx = s.rx)) ∨
    (t.frm.valid = true ∧ t.frm.result = t.flags.lastResult.code ∧ t.frm.len = t.cfg.pktLen ∧
      t.flags.lastResult ≠ .none ∧ t.dec = { sync := false, firstEdge := true, bitCnt := 0, acc := 0, byteIdx := 0 } ∧
      ∃ (c : Cycle) (rest : List Cycle) (x : SampleWord) (u : State),
        s.inputs = c :: rest ∧ c.rst = 0 ∧ c.smp = some x ∧ x.getLsbD 15 = true ∧
        (let s₀ : State := { s with inputs := rest, busRdata := none, frm := { valid := false, result := 0, len := 0, data := 0 } }
         (c.bus = none ∧ u = s₀) ∨ ∃ b, c.bus = some b ∧ exec (decodeBus b) s₀ = .next u) ∧
        DataEdge u ∧ u.dec.bitCnt = 7 ∧ u.dec.byteIdx + 1 = u.cfg.pktLen ∧
        t.cnt.pktTotal = u.cnt.pktTotal + 1)

/-- R104: a run longer than 65535 samples keeps st.RUN_LEN at 0xFFFF; R25: the first sample of a run gives 1. -/
def Obligations.RunLengthCountsAndSaturates : Prop :=
  ∀ (n k : Nat) (s : State), s.cfg.en = true → (s.edge.primed = true → s.edge.prevPol = false) →
    (∃ t, Host.Core.run Sys2Proof.core (n + 1) (s.feeding (List.replicate (n + 1) highSample)) = .next t ∧
      t.edge.prevPol = true ∧ t.edge.runLen.toNat = min (n + 1) 0xFFFF ∧ t.inputs = s.inputs) ∧
    (∃ t, Host.Core.run Sys2Proof.core (n + 1 + (k + 1))
        (s.feeding (List.replicate (n + 1) highSample ++ List.replicate (k + 1) lowSample)) = .next t ∧
      t.edge.prevPol = false ∧ t.edge.runLen.toNat = min (k + 1) 0xFFFF ∧ t.inputs = s.inputs)

/-- R121. -/
def Obligations.SyncPulseLengthDoesNotMatter : Prop :=
  ∀ (m m' : BitVec 15) (s t : State), s.cfg.en = true → exec (.smpHi m) s = .next t →
    t.cfg.syncMin.toNat ≤ t.edge.runLen.toNat →
    ∃ run : BitVec 16, run.toNat = min (t.edge.runLen.toNat + 1) 0xFFFF ∧
      exec (.smpHi m') t = .next { t with edge := { t.edge with runLen := run } }

/-- R124 item 1. -/
def Obligations.NoBitWithTinySyncMin : Prop :=
  ∀ (i : Instr) (s t : State), i ≠ .rst → s.cfg.en = true → NoBitDue s → exec i s = .next t →
    (t.cfg.en = true → NoBitDue t) ∧ (t.frm = s.frm) ∧
    (t.cnt = s.cnt ∨ t.cnt = { pktTotal := 0, pktChkOk := 0, pktAddrOk := 0 })

/-- R54. Nothing is said of `buf` (notes/assumptions/2.md). -/
def Obligations.ResetStateValues : Prop :=
  let s : State := State.reset
  s.edge = { primed := false, prevPol := false, runLen := 0 } ∧
  s.dec = { sync := false, firstEdge := true, bitCnt := 0, acc := 0x00, byteIdx := 0 } ∧
  s.cnt = { pktTotal := 0, pktChkOk := 0, pktAddrOk := 0 } ∧
  (∀ i, i < 16 → s.rx.bytes.byte i = 0x00) ∧ s.rx.len = 0 ∧ s.rx.full = false ∧
  s.flags.overrun = false ∧ s.flags.resync = false ∧ s.flags.lastResult.code = 0 ∧
  s.cfg = { en := false, afEn := false, ie := false, syncMin := 40, bitThresh := 20, pktLen := 8, chkOffset := 0x00,
              addrFilter := 0x000000 } ∧
  s.irq = false ∧ s.frm = { valid := false, result := 0, len := 0, data := 0 }

/-- R400. `buf` and `bus_rdata` are free values (notes/assumptions/3.md) and nothing is said of them. That RST leaves the queue `inputs` of the coming cycles' pins untouched is the model's choice (DESIGN CHOICE, notes/assumptions/1.md), no clause of R400. -/
def Obligations.ResetPinResets : Prop :=
  ∀ s : State, decode (.pin 1) = .ok .rst ∧ ∃ t, exec .rst s = .next t ∧
    t = { State.reset with buf := t.buf, busRdata := t.busRdata, inputs := s.inputs, freeCount := t.freeCount } ∧
    t.irq = false

/-- R38, R400: the reset column of the register map, read through the bus. -/
def Obligations.RegistersReadAfterReset : Prop :=
  ∀ (a : BusAddr) (d : RegWord) (s t : State), exec .rst s = .next t →
    ∃ u, exec (decodeBus (busWord 0 a d)) t = .next u ∧
      u.busRdata = some (if a = 0x08 then 0x28 else if a = 0x0C then 0x14 else if a = 0x10 then 0x8
        else if a = 0x30 then 0x01000000 else 0)

/-- R214, R217, R219, R221, R223: match and mask, and the value returned. -/
def Obligations.ConfigurationReads : Prop :=
  ∀ (w : BusWord) (s : State),
    (w &&& 0x1FF00000000 = 0x00800000000 → decodeBus w = .rdSyncMin (busData w) ∧
      exec (.rdSyncMin (busData w)) s = .next { s with busRdata := some (s.cfg.syncMin.setWidth 32) }) ∧
    (w &&& 0x1FF00000000 = 0x00C00000000 → decodeBus w = .rdBitThresh (busData w) ∧
      exec (.rdBitThresh (busData w)) s = .next { s with busRdata := some (s.cfg.bitThresh.setWidth 32) }) ∧
    (w &&& 0x1FF00000000 = 0x01000000000 → decodeBus w = .rdPktLen (busData w) ∧
      exec (.rdPktLen (busData w)) s = .next { s with busRdata := some (s.cfg.pktLen.setWidth 32) }) ∧
    (w &&& 0x1FF00000000 = 0x01400000000 → decodeBus w = .rdChkOffset (busData w) ∧
      exec (.rdChkOffset (busData w)) s = .next { s with busRdata := some (s.cfg.chkOffset.setWidth 32) }) ∧
    (w &&& 0x1FF00000000 = 0x01800000000 → decodeBus w = .rdAddrFilter (busData w) ∧
      exec (.rdAddrFilter (busData w)) s = .next { s with busRdata := some (s.cfg.addrFilter.setWidth 32) })

/-- R225, R226, R227. -/
def Obligations.CounterReads : Prop :=
  ∀ (w : BusWord) (s : State),
    (w &&& 0x1FF00000000 = 0x01C00000000 → decodeBus w = .rdPktTotal (busData w) ∧
      exec (.rdPktTotal (busData w)) s = .next { s with busRdata := some (s.cnt.pktTotal) }) ∧
    (w &&& 0x1FF00000000 = 0x02000000000 → decodeBus w = .rdPktChkOk (busData w) ∧
      exec (.rdPktChkOk (busData w)) s = .next { s with busRdata := some (s.cnt.pktChkOk) }) ∧
    (w &&& 0x1FF00000000 = 0x02400000000 → decodeBus w = .rdPktAddrOk (busData w) ∧
      exec (.rdPktAddrOk (busData w)) s = .next { s with busRdata := some (s.cnt.pktAddrOk) })

/-- R228, R230, R231, R232. -/
def Obligations.LatchAndRunLengthReads : Prop :=
  ∀ (w : BusWord) (s : State),
    (w &&& 0x1FF00000000 = 0x02C00000000 → decodeBus w = .rdRxLen (busData w) ∧
      exec (.rdRxLen (busData w)) s = .next { s with busRdata := some (s.rx.len.setWidth 32) }) ∧
    (w &&& 0x1FF00000000 = 0x03400000000 → decodeBus w = .rdRunLen (busData w) ∧
      exec (.rdRunLen (busData w)) s = .next { s with busRdata := some (s.edge.runLen.setWidth 32) }) ∧
    (w &&& 0x1C300000000 = 0x04000000000 → decodeBus w = .rdRxByte (w.extractLsb' 34 4) (busData w) ∧
      exec (.rdRxByte (w.extractLsb' 34 4) (busData w)) s =
        .next { s with busRdata := some ((s.rx.bytes.byte (w.extractLsb' 34 4).toNat).setWidth 32) }) ∧
    ((firstRow (.bus w)).map OpRow.opcode = some .rdZero → decodeBus w = .rdZero (w.extractLsb' 32 8) (busData w) ∧
      exec (.rdZero (w.extractLsb' 32 8) (busData w)) s = .next { s with busRdata := some 0x00000000 })

/-- R210, R211, R229: the bit positions of R39, R40, R49. -/
def Obligations.ComposedReads : Prop :=
  ∀ (w : BusWord) (s : State),
    (w &&& 0x1FF00000000 = 0x00000000000 → decodeBus w = .rdCtrl (busData w) ∧
      ∃ v : RegWord, exec (.rdCtrl (busData w)) s = .next { s with busRdata := some v } ∧
        v.getLsbD 0 = s.cfg.en ∧ v.getLsbD 1 = s.cfg.afEn ∧ v.getLsbD 2 = s.cfg.ie ∧ v.extractLsb' 3 29 = 0) ∧
    (w &&& 0x1FF00000000 = 0x00400000000 → decodeBus w = .rdStatus (busData w) ∧
      ∃ v : RegWord, exec (.rdStatus (busData w)) s = .next { s with busRdata := some v } ∧
        v.getLsbD 0 = s.dec.sync ∧ v.getLsbD 1 = s.rx.full ∧ v.getLsbD 2 = s.flags.overrun ∧
        v.getLsbD 3 = s.flags.resync ∧ v.extractLsb' 4 2 = s.flags.lastResult.code ∧ v.getLsbD 6 = s.edge.prevPol ∧
        v.getLsbD 7 = s.edge.primed ∧ v.extractLsb' 8 24 = 0) ∧
    (w &&& 0x1FF00000000 = 0x03000000000 → decodeBus w = .rdDbg (busData w) ∧
      ∃ v : RegWord, exec (.rdDbg (busData w)) s = .next { s with busRdata := some v } ∧
        v.extractLsb' 0 8 = s.dec.acc ∧ v.extractLsb' 8 4 = s.dec.bitCnt ∧ v.extractLsb' 12 4 = 0 ∧
        v.extractLsb' 16 5 = s.dec.byteIdx ∧ v.extractLsb' 21 3 = 0 ∧ v.getLsbD 24 = s.dec.firstEdge ∧
        v.extractLsb' 25 7 = 0)

/-- R78, R200: reads have no side effect on any state. -/
def Obligations.ReadsChangeNoState : Prop :=
  ∀ (w : BusWord) (s : State), w.getLsbD 40 = false →
    ∃ v : RegWord, exec (decodeBus w) s = .next { s with busRdata := some v }

/-- R212 with the decoder clear of R53. -/
def Obligations.ControlWrite : Prop :=
  ∀ (w : BusWord) (s : State),
    w &&& 0x1FF00000000 = 0x10000000000 → decodeBus w = .wrCtrl (busData w) ∧
      exec (.wrCtrl (busData w)) s = .next { s with
        cfg := { s.cfg with en := w.getLsbD 0, ie := w.getLsbD 2,
                            afEn := if s.cfg.en = true then s.cfg.afEn else w.getLsbD 1 },
        cnt := if w.getLsbD 3 = true then { pktTotal := 0, pktChkOk := 0, pktAddrOk := 0 } else s.cnt,
        edge := if s.cfg.en = true ∧ w.getLsbD 0 = false then { primed := false, prevPol := false, runLen := 0 } else s.edge,
        dec := if s.cfg.en = true ∧ w.getLsbD 0 = false then
            { sync := false, firstEdge := true, bitCnt := 0, acc := 0, byteIdx := 0 }
          else s.dec }

/-- R213. -/
def Obligations.StatusWrite : Prop :=
  ∀ (w : BusWord) (s : State),
    w &&& 0x1FF00000000 = 0x10400000000 → decodeBus w = .wrStatus (busData w) ∧
      exec (.wrStatus (busData w)) s = .next { s with
        flags := { s.flags with overrun := if w.getLsbD 2 = true then false else s.flags.overrun,
                                resync := if w.getLsbD 3 = true then false else s.flags.resync } }

/-- R215, R218, R220, R222, R224. -/
def Obligations.ConfigurationWrites : Prop :=
  ∀ (w : BusWord) (s : State),
    (w &&& 0x1FF00000000 = 0x10800000000 → decodeBus w = .wrSyncMin (busData w) ∧
      exec (.wrSyncMin (busData w)) s = .next (if s.cfg.en = false then { s with cfg := { s.cfg with syncMin := w.extractLsb' 0 16 } } else s)) ∧
    (w &&& 0x1FF00000000 = 0x10C00000000 → decodeBus w = .wrBitThresh (busData w) ∧
      exec (.wrBitThresh (busData w)) s = .next (if s.cfg.en = false then { s with cfg := { s.cfg with bitThresh := w.extractLsb' 0 16 } } else s)) ∧
    (w &&& 0x1FF00000000 = 0x11000000000 → decodeBus w = .wrPktLen (busData w) ∧
      exec (.wrPktLen (busData w)) s = .next (if s.cfg.en = false ∧ 4 ≤ (w.extractLsb' 0 5).toNat ∧ (w.extractLsb' 0 5).toNat ≤ 16 then { s with cfg := { s.cfg with pktLen := w.extractLsb' 0 5 } } else s)) ∧
    (w &&& 0x1FF00000000 = 0x11400000000 → decodeBus w = .wrChkOffset (busData w) ∧
      exec (.wrChkOffset (busData w)) s = .next (if s.cfg.en = false then { s with cfg := { s.cfg with chkOffset := w.extractLsb' 0 8 } } else s)) ∧
    (w &&& 0x1FF00000000 = 0x11800000000 → decodeBus w = .wrAddrFilter (busData w) ∧
      exec (.wrAddrFilter (busData w)) s = .next (if s.cfg.en = false then { s with cfg := { s.cfg with addrFilter := w.extractLsb' 0 24 } } else s))

/-- R216, R233. -/
def Obligations.PopAndIgnoredWrites : Prop :=
  ∀ (w : BusWord) (s : State),
    (w &&& 0x1FF00000000 = 0x12800000000 → decodeBus w = .wrRxPop (busData w) ∧
      exec (.wrRxPop (busData w)) s = .next { s with rx := { s.rx with full := false } }) ∧
    ((firstRow (.bus w)).map OpRow.opcode = some .wrIgnored → decodeBus w = .wrIgnored (w.extractLsb' 32 8) (busData w) ∧
      exec (.wrIgnored (w.extractLsb' 32 8) (busData w)) s = .next s)

/-- R202. -/
def Obligations.ConfigurationLockedWhileEnabled : Prop :=
  ∀ (i : Instr) (s t : State), i ≠ .rst → exec i s = .next t →
    (s.cfg.en = true → t.cfg = { s.cfg with en := t.cfg.en, ie := t.cfg.ie }) ∧
    (i.opcode ≠ .wrCtrl → t.cfg.en = s.cfg.en ∧ t.cfg.ie = s.cfg.ie)

/-- R85: the bytes a host reads between seeing RX_FULL = 1 and writing RX_POP all belong to one packet. -/
def Obligations.LatchStableWhileFull : Prop :=
  ∀ (i : Instr) (s t : State), i ≠ .rst → s.rx.full = true → exec i s = .next t →
    t.rx.bytes = s.rx.bytes ∧ t.rx.len = s.rx.len ∧ (i.opcode ≠ .wrRxPop → t.rx.full = true)

/-- R302. -/
def Obligations.InterruptLine : Prop :=
  (∀ s : State, s.irq = true ↔ s.cfg.ie = true ∧ (s.rx.full = true ∨ s.flags.overrun = true)) ∧
    (∀ (d : RegWord) (s : State), ∃ t, exec (.wrRxPop d) s = .next t ∧ (t.irq = true ↔ s.cfg.ie = true ∧ s.flags.overrun = true)) ∧
    (∀ (d : RegWord) (s : State), d.getLsbD 2 = true →
      ∃ t, exec (.wrStatus d) s = .next t ∧ (t.irq = true ↔ s.cfg.ie = true ∧ s.rx.full = true)) ∧
    (∀ (d : RegWord) (s : State), d.getLsbD 2 = false → ∃ t, exec (.wrCtrl d) s = .next t ∧ t.irq = false) ∧
    State.reset.irq = false

/-- R55, R33 at State.reset. The value chosen for `buf` there (notes/assumptions/2.md) is not used. -/
def Obligations.DecoderInvariantAtReset : Prop :=
  DecoderInv State.reset ∧ CountersNested State.reset ∧ LatchPadded State.reset

/-- R55 items 1 to 6. -/
def Obligations.DecoderInvariantKept : Prop :=
  ∀ s t : State, DecoderInv s → step s = .next t → DecoderInv t

/-- R55 item 7. -/
def Obligations.CountersNestedUntilWrap : Prop :=
  ∀ s t : State, CountersNested s → s.cnt.pktTotal ≠ 0xFFFFFFFF → step s = .next t → CountersNested t

/-- R33. -/
def Obligations.LatchPaddingKept : Prop :=
  ∀ s t : State, LatchPadded s → step s = .next t → LatchPadded t

/-- R31: no rule lets a host or the frame port observe a stale byte. So no run depends on the value chosen for `buf` at reset (notes/assumptions/2.md). -/
def Obligations.UnwrittenBufferUnobservable : Prop :=
  ∀ s s' t t' : State, DecoderInv s → SameButUnwritten s s' → step s = .next t → step s' = .next t' →
    SameButUnwritten t t' ∧ t'.frm = t.frm ∧ t'.busRdata = t.busRdata ∧ t'.rx = t.rx ∧ t'.irq = t.irq

/-- R171, over the comparison the validator uses. -/
def Obligations.SingleByteCorruptionDetected : Prop :=
  (∀ (b : Buffer) (l k : Nat) (v offset : Byte), 4 ≤ l → l ≤ 16 → k < l → v ≠ b.byte k →
      chkOk b l offset = true → chkOk (b.put k v) l offset = false) ∧
    (∀ (b : Buffer) (l : Nat) (offset : Byte), 4 ≤ l → l ≤ 16 → chkOk b l offset = true →
      chkOk ((b.put 0 (b.byte 0 + 1)).put 1 (b.byte 1 - 1)) l offset = true)

/-- R6: CAP is a model parameter, 16 in this hardware. The argument of the types and the meanings is the model's reading of it (notes/assumptions/7.md). -/
def Obligations.HardwareIsTheInstanceOfCapacity16 : Prop :=
  (∀ (i : Instr) (s : State), exec i s = execAt i s) ∧ (∀ s : State, step s = stepAt s) ∧
    Sys2Proof.core = coreAt 16 ∧ State.reset = State.resetOf 16

/-- R6, R43, R220, with the capacity as an argument (notes/assumptions/7.md). -/
def Obligations.PacketLengthLegalUpToCapacity : Prop :=
  ∀ (cap : Nat) (d : RegWord) (s : State cap),
    execAt (.wrPktLen d) s = .next
      (if s.cfg.en = false ∧ 4 ≤ (d.extractLsb' 0 5).toNat ∧ (d.extractLsb' 0 5).toNat ≤ cap then
        { s with cfg := { s.cfg with pktLen := d.extractLsb' 0 5 } }
      else s)

/-- R55 items 1 to 6 and the bound of R144, with the capacity of R6 as an argument. That 8, the reset value of PKT_LEN, is the least capacity is the model's choice (DEDUCED, notes/assumptions/7.md). -/
def Obligations.BufferWritesInBoundsAtEveryCapacity : Prop :=
  (∀ cap : Nat, 8 ≤ cap → DecoderInv (State.resetOf cap)) ∧
    (∀ (cap : Nat) (s t : State cap), 8 ≤ cap → DecoderInv s → stepAt s = .next t → DecoderInv t) ∧
    ∀ (cap : Nat) (s : State cap), DecoderInv s → s.dec.byteIdx.toNat < cap

/-- S1 of 95_test_vectors.md over R99, and the latency of R411 (no later sample is needed). The premise 1 ≤ w0 is the model's (DEDUCED, notes/assumptions/10.md): R99 leaves it out, and a pulse of width 0 is no pulse. -/
def Obligations.PacketRecovery : Prop :=
  ∀ (bs : List Byte) (h lp w0 w1 l : Nat) (s : State), s.cfg.en = true →
    bs.length = s.cfg.pktLen.toNat → 4 ≤ bs.length → bs.length ≤ 16 →
    1 ≤ w0 → w0 < s.cfg.bitThresh.toNat → s.cfg.bitThresh.toNat ≤ w1 → w1 < s.cfg.syncMin.toNat → s.cfg.syncMin.toNat ≤ h →
    1 ≤ lp → 1 ≤ l →
    let samples := packetSamples h lp w0 w1 l bs
    let fed := samples.take (samples.length - (l - 1))
    ∃ t, Host.Core.run Sys2Proof.core fed.length (s.feeding fed) = .next t ∧
      t.inputs = s.inputs ∧ t.cnt.pktTotal = s.cnt.pktTotal + 1 ∧ t.dec = DecoderState.reset ∧
      t.frm.valid = true ∧ t.frm.len = s.cfg.pktLen ∧
      (∀ i, i < bs.length → t.frm.data.extractLsb' (8 * i) 8 = bs.getD i 0) ∧
      (bs.getD (bs.length - 1) 0 = (bs.take (bs.length - 1)).foldl (· + ·) 0 + s.cfg.chkOffset →
        (s.cfg.afEn = false ∨ bs.getD 0 0 ++ bs.getD 1 0 ++ bs.getD 2 0 = s.cfg.addrFilter) → s.rx.full = false →
        t.frm.result = 1 ∧ t.rx.full = true ∧ t.rx.len = s.cfg.pktLen ∧
        ∀ i, i < bs.length → t.rx.bytes.byte i = bs.getD i 0)
end

