-- ==== Sys2Proof/Laws/Decode.lean ====
section
/-! SUPPORT. The fields of a transaction word, in both directions, and what the row masks of R95 say about them. -/

namespace Sys2Proof

/-! ## Format BUS (R92) -/

@[simp] theorem busWe_busWord (we : BitVec 1) (a : BusAddr) (d : RegWord) : busWe (busWord we a d) = we.getLsbD 0 := by
  rw [busWe, busWord, BitVec.getLsbD_append, if_neg (by decide), BitVec.getLsbD_append]; rfl

@[simp] theorem busAddr_busWord (we : BitVec 1) (a : BusAddr) (d : RegWord) : busAddr (busWord we a d) = a := by
  apply BitVec.eq_of_getLsbD_eq
  intro i hi
  simp only [busAddr, busWord, BitVec.getLsbD_extractLsb', BitVec.getLsbD_append]
  simp [hi]

@[simp] theorem busData_busWord (we : BitVec 1) (a : BusAddr) (d : RegWord) : busData (busWord we a d) = d := by
  apply BitVec.eq_of_getLsbD_eq
  intro i hi
  simp only [busData, busWord, BitVec.getLsbD_extractLsb', BitVec.getLsbD_append]
  simp [hi]

/-- A BUS word is its three fields (R92). -/
theorem busWord_fields (w : BusWord) : busWord (BitVec.ofBool (busWe w)) (busAddr w) (busData w) = w := by
  apply BitVec.eq_of_getLsbD_eq
  intro i hi
  simp only [busWord, busWe, busAddr, busData, BitVec.getLsbD_append, BitVec.getLsbD_extractLsb']
  rcases Nat.lt_or_ge i 32 with h | h
  · simp [h]
  rcases Nat.lt_or_ge i 40 with h' | h'
  · have h1 : ¬ i < 32 := by omega
    have h2 : i - 32 < 8 := by omega
    have h3 : 32 + (i - 32) = i := by omega
    simp [h1, h2, h3]
  · have : i = 40 := by omega
    subst this
    simp

/-- Every BUS word is `busWord` of its fields. -/
theorem exists_busWord (w : BusWord) : ∃ we a d, w = busWord we a d := ⟨_, _, _, (busWord_fields w).symm⟩

/-- Masking a BUS word masks each of its fields. -/
theorem busWord_and (we we' : BitVec 1) (a a' : BusAddr) (d d' : RegWord) :
    busWord we a d &&& busWord we' a' d' = busWord (we &&& we') (a &&& a') (d &&& d') := by
  simp only [busWord]
  have h1 : (we ++ a ++ d) &&& (we' ++ a' ++ d') = ((we ++ a) &&& (we' ++ a')) ++ (d &&& d') := BitVec.and_append
  have h2 : (we ++ a) &&& (we' ++ a') = (we &&& we') ++ (a &&& a') := BitVec.and_append
  rw [← h2]
  exact h1

theorem busWord_inj {we we' : BitVec 1} {a a' : BusAddr} {d d' : RegWord} (h : busWord we a d = busWord we' a' d') :
    we = we' ∧ a = a' ∧ d = d' := by
  refine ⟨?_, ?_, ?_⟩
  · have := congrArg busWe h
    simp only [busWe_busWord] at this
    apply BitVec.eq_of_getLsbD_eq
    intro i hi
    have : i = 0 := by omega
    subst this
    assumption
  · simpa using congrArg busAddr h
  · simpa using congrArg busData h

/-- The mask 0x1FF00000000 of the named rows keeps `bus_we` and the address (R95). -/
theorem mask_named (we we' : BitVec 1) (a a' : BusAddr) (d : RegWord) :
    busWord we a d &&& 0x1FF00000000 = busWord we' a' 0 ↔ we = we' ∧ a = a' := by
  have hm : (0x1FF00000000 : BusWord) = busWord 1 0xFF 0 := by decide
  rw [hm, busWord_and]
  have hw : we &&& 1 = we := by revert we; decide
  have hz : ∀ n (x : BitVec n), x &&& 0 = 0 := fun _ _ => BitVec.and_zero
  have ha : a &&& 0xFF = a := by
    have : (0xFF : BusAddr) = BitVec.allOnes 8 := by decide
    rw [this, BitVec.and_allOnes]
  rw [hw, ha, hz]
  constructor
  · intro h; exact ⟨(busWord_inj h).1, (busWord_inj h).2.1⟩
  · rintro ⟨rfl, rfl⟩; rfl

/-- The mask 0x1C300000000 of RD_RX_BYTE (R95). -/
theorem mask_rxByte (we we' : BitVec 1) (a a' : BusAddr) (d : RegWord) :
    busWord we a d &&& 0x1C300000000 = busWord we' a' 0 ↔ we = we' ∧ a &&& 0xC3 = a' := by
  have hm : (0x1C300000000 : BusWord) = busWord 1 0xC3 0 := by decide
  rw [hm, busWord_and]
  have hw : we &&& 1 = we := by revert we; decide
  have hz : ∀ n (x : BitVec n), x &&& 0 = 0 := fun _ _ => BitVec.and_zero
  rw [hw, hz]
  constructor
  · intro h; exact ⟨(busWord_inj h).1, (busWord_inj h).2.1⟩
  · rintro ⟨rfl, rfl⟩; rfl

/-- The mask 0x10000000000 of the catch-all rows keeps `bus_we` alone (R95). -/
theorem mask_catchAll (we we' : BitVec 1) (a : BusAddr) (d : RegWord) :
    busWord we a d &&& 0x10000000000 = busWord we' 0 0 ↔ we = we' := by
  have hm : (0x10000000000 : BusWord) = busWord 1 0 0 := by decide
  rw [hm, busWord_and]
  have hw : we &&& 1 = we := by revert we; decide
  have hz : ∀ n (x : BitVec n), x &&& 0 = 0 := fun _ _ => BitVec.and_zero
  rw [hw, hz, hz]
  constructor
  · intro h; exact (busWord_inj h).1
  · rintro rfl; rfl

/-- A BUS word decodes by its fields. -/
theorem decodeBus_busWord (we : BitVec 1) (a : BusAddr) (d : RegWord) :
    decodeBus (busWord we a d) = if we.getLsbD 0 then decodeWrite a d else decodeRead a d := by
  simp [decodeBus]

/-! ## RX_BYTEi (R51, R94) -/

theorem rxIndex_rxByteAddr (i : BitVec 4) : rxIndex (rxByteAddr i) = i := by revert i; decide

theorem isRxByteAddr_rxByteAddr (i : BitVec 4) : isRxByteAddr (rxByteAddr i) = true := by revert i; decide

theorem rxByteAddr_rxIndex (a : BusAddr) (h : isRxByteAddr a = true) : rxByteAddr (rxIndex a) = a := by
  revert a; decide

/-! ## The address chains of the decoder, one lemma for each row (R95) -/

@[simp] theorem decodeRead_rdCtrl (d : RegWord) : decodeRead 0x00 d = .rdCtrl d := rfl
@[simp] theorem decodeWrite_wrCtrl (d : RegWord) : decodeWrite 0x00 d = .wrCtrl d := rfl
@[simp] theorem decodeRead_rdStatus (d : RegWord) : decodeRead 0x04 d = .rdStatus d := rfl
@[simp] theorem decodeWrite_wrStatus (d : RegWord) : decodeWrite 0x04 d = .wrStatus d := rfl
@[simp] theorem decodeRead_rdSyncMin (d : RegWord) : decodeRead 0x08 d = .rdSyncMin d := rfl
@[simp] theorem decodeWrite_wrSyncMin (d : RegWord) : decodeWrite 0x08 d = .wrSyncMin d := rfl
@[simp] theorem decodeRead_rdBitThresh (d : RegWord) : decodeRead 0x0C d = .rdBitThresh d := rfl
@[simp] theorem decodeWrite_wrBitThresh (d : RegWord) : decodeWrite 0x0C d = .wrBitThresh d := rfl
@[simp] theorem decodeRead_rdPktLen (d : RegWord) : decodeRead 0x10 d = .rdPktLen d := rfl
@[simp] theorem decodeWrite_wrPktLen (d : RegWord) : decodeWrite 0x10 d = .wrPktLen d := rfl
@[simp] theorem decodeRead_rdChkOffset (d : RegWord) : decodeRead 0x14 d = .rdChkOffset d := rfl
@[simp] theorem decodeWrite_wrChkOffset (d : RegWord) : decodeWrite 0x14 d = .wrChkOffset d := rfl
@[simp] theorem decodeRead_rdAddrFilter (d : RegWord) : decodeRead 0x18 d = .rdAddrFilter d := rfl
@[simp] theorem decodeWrite_wrAddrFilter (d : RegWord) : decodeWrite 0x18 d = .wrAddrFilter d := rfl
@[simp] theorem decodeRead_rdPktTotal (d : RegWord) : decodeRead 0x1C d = .rdPktTotal d := rfl
@[simp] theorem decodeRead_rdPktChkOk (d : RegWord) : decodeRead 0x20 d = .rdPktChkOk d := rfl
@[simp] theorem decodeRead_rdPktAddrOk (d : RegWord) : decodeRead 0x24 d = .rdPktAddrOk d := rfl
@[simp] theorem decodeWrite_wrRxPop (d : RegWord) : decodeWrite 0x28 d = .wrRxPop d := rfl
@[simp] theorem decodeRead_rdRxLen (d : RegWord) : decodeRead 0x2C d = .rdRxLen d := rfl
@[simp] theorem decodeRead_rdDbg (d : RegWord) : decodeRead 0x30 d = .rdDbg d := rfl
@[simp] theorem decodeRead_rdRunLen (d : RegWord) : decodeRead 0x34 d = .rdRunLen d := rfl

/-- The addresses of RD_RX_BYTE have no named row before it. -/
theorem decodeRead_rxByteAddr (i : BitVec 4) (d : RegWord) : decodeRead (rxByteAddr i) d = .rdRxByte i d := by
  have h : isRxByteAddr (rxByteAddr i) = true := isRxByteAddr_rxByteAddr i
  have hn : ∀ j : BitVec 4, rxByteAddr j ∉ namedReads := by decide
  have hx := hn i
  rw [namedReads] at hx
  simp only [List.mem_cons, not_or] at hx
  obtain ⟨h1, h2, h3, h4, h5, h6, h7, h8, h9, h10, h11, h12, h13, -⟩ := hx
  rw [decodeRead, if_neg h1, if_neg h2, if_neg h3, if_neg h4, if_neg h5, if_neg h6, if_neg h7, if_neg h8, if_neg h9,
    if_neg h10, if_neg h11, if_neg h12, if_neg h13, if_pos h, rxIndex_rxByteAddr]

/-- A read of an address that no row names is RD_ZERO. -/
theorem decodeRead_of_not_named (a : BusAddr) (d : RegWord) (h : readIsNamed a = false) :
    decodeRead a d = .rdZero a d := by
  rw [readIsNamed, Bool.or_eq_false_iff] at h
  have hx : a ∉ namedReads := by simpa using h.1
  rw [namedReads] at hx
  simp only [List.mem_cons, not_or] at hx
  obtain ⟨h1, h2, h3, h4, h5, h6, h7, h8, h9, h10, h11, h12, h13, -⟩ := hx
  rw [decodeRead, if_neg h1, if_neg h2, if_neg h3, if_neg h4, if_neg h5, if_neg h6, if_neg h7, if_neg h8, if_neg h9,
    if_neg h10, if_neg h11, if_neg h12, if_neg h13, if_neg (by simp [h.2])]

/-- A write to an address that no row names is WR_IGNORED. -/
theorem decodeWrite_of_not_named (a : BusAddr) (d : RegWord) (h : writeIsNamed a = false) :
    decodeWrite a d = .wrIgnored a d := by
  have hx : a ∉ namedWrites := by simpa [writeIsNamed] using h
  rw [namedWrites] at hx
  simp only [List.mem_cons, not_or] at hx
  obtain ⟨h1, h2, h3, h4, h5, h6, h7, h8, -⟩ := hx
  rw [decodeWrite, if_neg h1, if_neg h2, if_neg h3, if_neg h4, if_neg h5, if_neg h6, if_neg h7, if_neg h8]

/-- The three kinds of read address. -/
theorem readAddr_cases (a : BusAddr) : a ∈ namedReads ∨ (∃ i, a = rxByteAddr i) ∨ readIsNamed a = false := by
  cases hx : isRxByteAddr a
  · by_cases hm : a ∈ namedReads
    · exact .inl hm
    · exact .inr (.inr (by simp [readIsNamed, hx, hm]))
  · exact .inr (.inl ⟨rxIndex a, (rxByteAddr_rxIndex a hx).symm⟩)

/-- The two kinds of write address. -/
theorem writeAddr_cases (a : BusAddr) : a ∈ namedWrites ∨ writeIsNamed a = false := by
  by_cases hm : a ∈ namedWrites
  · exact .inl hm
  · exact .inr (by simp [writeIsNamed, hm])

/-- All that a read word decodes to, an instruction of its own for each address. -/
theorem decodeRead_cases {P : BusAddr → Instr → Prop} (d : RegWord)
    (hrdCtrl : P 0x00 (.rdCtrl d))
    (hrdStatus : P 0x04 (.rdStatus d))
    (hrdSyncMin : P 0x08 (.rdSyncMin d))
    (hrdBitThresh : P 0x0C (.rdBitThresh d))
    (hrdPktLen : P 0x10 (.rdPktLen d))
    (hrdChkOffset : P 0x14 (.rdChkOffset d))
    (hrdAddrFilter : P 0x18 (.rdAddrFilter d))
    (hrdPktTotal : P 0x1C (.rdPktTotal d))
    (hrdPktChkOk : P 0x20 (.rdPktChkOk d))
    (hrdPktAddrOk : P 0x24 (.rdPktAddrOk d))
    (hrdRxLen : P 0x2C (.rdRxLen d))
    (hrdDbg : P 0x30 (.rdDbg d))
    (hrdRunLen : P 0x34 (.rdRunLen d))
    (hrx : ∀ i, P (rxByteAddr i) (.rdRxByte i d)) (hz : ∀ a, readIsNamed a = false → P a (.rdZero a d)) (a : BusAddr) :
    P a (decodeRead a d) := by
  rcases readAddr_cases a with h | ⟨i, rfl⟩ | h
  · rw [namedReads] at h
    simp only [List.mem_cons, List.not_mem_nil, or_false] at h
    rcases h with rfl | rfl | rfl | rfl | rfl | rfl | rfl | rfl | rfl | rfl | rfl | rfl | rfl <;> assumption
  · rw [decodeRead_rxByteAddr]; exact hrx i
  · rw [decodeRead_of_not_named a d h]; exact hz a h

/-- All that a write word decodes to, an instruction of its own for each address. -/
theorem decodeWrite_cases {P : BusAddr → Instr → Prop} (d : RegWord)
    (hwrCtrl : P 0x00 (.wrCtrl d))
    (hwrStatus : P 0x04 (.wrStatus d))
    (hwrSyncMin : P 0x08 (.wrSyncMin d))
    (hwrBitThresh : P 0x0C (.wrBitThresh d))
    (hwrPktLen : P 0x10 (.wrPktLen d))
    (hwrChkOffset : P 0x14 (.wrChkOffset d))
    (hwrAddrFilter : P 0x18 (.wrAddrFilter d))
    (hwrRxPop : P 0x28 (.wrRxPop d))
    (hi : ∀ a, writeIsNamed a = false → P a (.wrIgnored a d)) (a : BusAddr) : P a (decodeWrite a d) := by
  rcases writeAddr_cases a with h | h
  · rw [namedWrites] at h
    simp only [List.mem_cons, List.not_mem_nil, or_false] at h
    rcases h with rfl | rfl | rfl | rfl | rfl | rfl | rfl | rfl <;> assumption
  · rw [decodeWrite_of_not_named a d h]; exact hi a h

/-- Every BUS word is a read or a write. -/
theorem decodeBus_cases (w : BusWord) :
    (∃ a d, w = busWord 0 a d ∧ decodeBus w = decodeRead a d) ∨ (∃ a d, w = busWord 1 a d ∧ decodeBus w = decodeWrite a d) := by
  obtain ⟨we, a, d, rfl⟩ := exists_busWord w
  have h : we = 0 ∨ we = 1 := by clear d a; revert we; decide
  rcases h with rfl | rfl
  · exact .inl ⟨a, d, rfl, decodeBus_busWord 0 a d⟩
  · exact .inr ⟨a, d, rfl, decodeBus_busWord 1 a d⟩

/-! ## Format SMP (R91) -/

@[simp] theorem smpSign_smpWord (s : BitVec 1) (m : BitVec 15) : smpSign (smpWord s m) = s.getLsbD 0 := by
  rw [smpSign, smpWord, BitVec.getLsbD_append]; rfl

@[simp] theorem smpMagnitude_smpWord (s : BitVec 1) (m : BitVec 15) : smpMagnitude (smpWord s m) = m := by
  apply BitVec.eq_of_getLsbD_eq
  intro i hi
  rw [smpMagnitude, smpWord, BitVec.getLsbD_extractLsb', BitVec.getLsbD_append]
  simp [hi]

/-- A SMP word is its two fields (R91). -/
theorem smpWord_fields (w : SampleWord) : smpWord (BitVec.ofBool (smpSign w)) (smpMagnitude w) = w := by
  apply BitVec.eq_of_getLsbD_eq
  intro i hi
  simp only [smpWord, smpSign, smpMagnitude, BitVec.getLsbD_append, BitVec.getLsbD_extractLsb']
  rcases Nat.lt_or_ge i 15 with h | h
  · simp [h]
  · have : i = 15 := by omega
    subst this
    simp

/-! ## Bytes (R72) -/

/-- A number's bytes read back, when it fits. -/
theorem natOfBytes_bytesOfNat (n v : Nat) (h : v < 256 ^ n) : natOfBytes (bytesOfNat n v) = v := by
  induction n generalizing v with
  | zero => simp at h; subst h; rfl
  | succ n ih =>
    have : v / 256 < 256 ^ n := by
      rw [Nat.div_lt_iff_lt_mul (by decide)]
      rwa [Nat.pow_succ] at h
    rw [bytesOfNat, natOfBytes, ih _ this, BitVec.toNat_ofNat]
    omega

theorem length_bytesOfNat (n v : Nat) : (bytesOfNat n v).length = n := by
  induction n generalizing v with
  | zero => rfl
  | succ n ih => rw [bytesOfNat, List.length_cons, ih]

end Sys2Proof
end

