-- ==== Sys2Proof/Laws/State.lean ====
section
/-! SUPPORT. One lemma for each field and each update of the state, and the laws of a buffer's bytes. -/

namespace Sys2Proof.Machine

variable {cap : Nat}

section setEdge
variable (x : EdgeState) (s : State cap)
@[simp] theorem State.setEdge_edge : (s.setEdge x).edge = x := rfl
@[simp] theorem State.setEdge_dec : (s.setEdge x).dec = s.dec := rfl
@[simp] theorem State.setEdge_buf : (s.setEdge x).buf = s.buf := rfl
@[simp] theorem State.setEdge_cnt : (s.setEdge x).cnt = s.cnt := rfl
@[simp] theorem State.setEdge_rx : (s.setEdge x).rx = s.rx := rfl
@[simp] theorem State.setEdge_flags : (s.setEdge x).flags = s.flags := rfl
@[simp] theorem State.setEdge_cfg : (s.setEdge x).cfg = s.cfg := rfl
@[simp] theorem State.setEdge_frm : (s.setEdge x).frm = s.frm := rfl
@[simp] theorem State.setEdge_busRdata : (s.setEdge x).busRdata = s.busRdata := rfl
@[simp] theorem State.setEdge_inputs : (s.setEdge x).inputs = s.inputs := rfl
@[simp] theorem State.setEdge_freeCount : (s.setEdge x).freeCount = s.freeCount := rfl
end setEdge

section setDec
variable (x : DecoderState) (s : State cap)
@[simp] theorem State.setDec_edge : (s.setDec x).edge = s.edge := rfl
@[simp] theorem State.setDec_dec : (s.setDec x).dec = x := rfl
@[simp] theorem State.setDec_buf : (s.setDec x).buf = s.buf := rfl
@[simp] theorem State.setDec_cnt : (s.setDec x).cnt = s.cnt := rfl
@[simp] theorem State.setDec_rx : (s.setDec x).rx = s.rx := rfl
@[simp] theorem State.setDec_flags : (s.setDec x).flags = s.flags := rfl
@[simp] theorem State.setDec_cfg : (s.setDec x).cfg = s.cfg := rfl
@[simp] theorem State.setDec_frm : (s.setDec x).frm = s.frm := rfl
@[simp] theorem State.setDec_busRdata : (s.setDec x).busRdata = s.busRdata := rfl
@[simp] theorem State.setDec_inputs : (s.setDec x).inputs = s.inputs := rfl
@[simp] theorem State.setDec_freeCount : (s.setDec x).freeCount = s.freeCount := rfl
end setDec

section setBuf
variable (x : Buffer cap) (s : State cap)
@[simp] theorem State.setBuf_edge : (s.setBuf x).edge = s.edge := rfl
@[simp] theorem State.setBuf_dec : (s.setBuf x).dec = s.dec := rfl
@[simp] theorem State.setBuf_buf : (s.setBuf x).buf = x := rfl
@[simp] theorem State.setBuf_cnt : (s.setBuf x).cnt = s.cnt := rfl
@[simp] theorem State.setBuf_rx : (s.setBuf x).rx = s.rx := rfl
@[simp] theorem State.setBuf_flags : (s.setBuf x).flags = s.flags := rfl
@[simp] theorem State.setBuf_cfg : (s.setBuf x).cfg = s.cfg := rfl
@[simp] theorem State.setBuf_frm : (s.setBuf x).frm = s.frm := rfl
@[simp] theorem State.setBuf_busRdata : (s.setBuf x).busRdata = s.busRdata := rfl
@[simp] theorem State.setBuf_inputs : (s.setBuf x).inputs = s.inputs := rfl
@[simp] theorem State.setBuf_freeCount : (s.setBuf x).freeCount = s.freeCount := rfl
end setBuf

section setCnt
variable (x : Counters) (s : State cap)
@[simp] theorem State.setCnt_edge : (s.setCnt x).edge = s.edge := rfl
@[simp] theorem State.setCnt_dec : (s.setCnt x).dec = s.dec := rfl
@[simp] theorem State.setCnt_buf : (s.setCnt x).buf = s.buf := rfl
@[simp] theorem State.setCnt_cnt : (s.setCnt x).cnt = x := rfl
@[simp] theorem State.setCnt_rx : (s.setCnt x).rx = s.rx := rfl
@[simp] theorem State.setCnt_flags : (s.setCnt x).flags = s.flags := rfl
@[simp] theorem State.setCnt_cfg : (s.setCnt x).cfg = s.cfg := rfl
@[simp] theorem State.setCnt_frm : (s.setCnt x).frm = s.frm := rfl
@[simp] theorem State.setCnt_busRdata : (s.setCnt x).busRdata = s.busRdata := rfl
@[simp] theorem State.setCnt_inputs : (s.setCnt x).inputs = s.inputs := rfl
@[simp] theorem State.setCnt_freeCount : (s.setCnt x).freeCount = s.freeCount := rfl
end setCnt

section setRx
variable (x : RxLatch cap) (s : State cap)
@[simp] theorem State.setRx_edge : (s.setRx x).edge = s.edge := rfl
@[simp] theorem State.setRx_dec : (s.setRx x).dec = s.dec := rfl
@[simp] theorem State.setRx_buf : (s.setRx x).buf = s.buf := rfl
@[simp] theorem State.setRx_cnt : (s.setRx x).cnt = s.cnt := rfl
@[simp] theorem State.setRx_rx : (s.setRx x).rx = x := rfl
@[simp] theorem State.setRx_flags : (s.setRx x).flags = s.flags := rfl
@[simp] theorem State.setRx_cfg : (s.setRx x).cfg = s.cfg := rfl
@[simp] theorem State.setRx_frm : (s.setRx x).frm = s.frm := rfl
@[simp] theorem State.setRx_busRdata : (s.setRx x).busRdata = s.busRdata := rfl
@[simp] theorem State.setRx_inputs : (s.setRx x).inputs = s.inputs := rfl
@[simp] theorem State.setRx_freeCount : (s.setRx x).freeCount = s.freeCount := rfl
end setRx

section setFlags
variable (x : StatusFlags) (s : State cap)
@[simp] theorem State.setFlags_edge : (s.setFlags x).edge = s.edge := rfl
@[simp] theorem State.setFlags_dec : (s.setFlags x).dec = s.dec := rfl
@[simp] theorem State.setFlags_buf : (s.setFlags x).buf = s.buf := rfl
@[simp] theorem State.setFlags_cnt : (s.setFlags x).cnt = s.cnt := rfl
@[simp] theorem State.setFlags_rx : (s.setFlags x).rx = s.rx := rfl
@[simp] theorem State.setFlags_flags : (s.setFlags x).flags = x := rfl
@[simp] theorem State.setFlags_cfg : (s.setFlags x).cfg = s.cfg := rfl
@[simp] theorem State.setFlags_frm : (s.setFlags x).frm = s.frm := rfl
@[simp] theorem State.setFlags_busRdata : (s.setFlags x).busRdata = s.busRdata := rfl
@[simp] theorem State.setFlags_inputs : (s.setFlags x).inputs = s.inputs := rfl
@[simp] theorem State.setFlags_freeCount : (s.setFlags x).freeCount = s.freeCount := rfl
end setFlags

section setCfg
variable (x : ConfigRegs) (s : State cap)
@[simp] theorem State.setCfg_edge : (s.setCfg x).edge = s.edge := rfl
@[simp] theorem State.setCfg_dec : (s.setCfg x).dec = s.dec := rfl
@[simp] theorem State.setCfg_buf : (s.setCfg x).buf = s.buf := rfl
@[simp] theorem State.setCfg_cnt : (s.setCfg x).cnt = s.cnt := rfl
@[simp] theorem State.setCfg_rx : (s.setCfg x).rx = s.rx := rfl
@[simp] theorem State.setCfg_flags : (s.setCfg x).flags = s.flags := rfl
@[simp] theorem State.setCfg_cfg : (s.setCfg x).cfg = x := rfl
@[simp] theorem State.setCfg_frm : (s.setCfg x).frm = s.frm := rfl
@[simp] theorem State.setCfg_busRdata : (s.setCfg x).busRdata = s.busRdata := rfl
@[simp] theorem State.setCfg_inputs : (s.setCfg x).inputs = s.inputs := rfl
@[simp] theorem State.setCfg_freeCount : (s.setCfg x).freeCount = s.freeCount := rfl
end setCfg

section setFrm
variable (x : FramePort cap) (s : State cap)
@[simp] theorem State.setFrm_edge : (s.setFrm x).edge = s.edge := rfl
@[simp] theorem State.setFrm_dec : (s.setFrm x).dec = s.dec := rfl
@[simp] theorem State.setFrm_buf : (s.setFrm x).buf = s.buf := rfl
@[simp] theorem State.setFrm_cnt : (s.setFrm x).cnt = s.cnt := rfl
@[simp] theorem State.setFrm_rx : (s.setFrm x).rx = s.rx := rfl
@[simp] theorem State.setFrm_flags : (s.setFrm x).flags = s.flags := rfl
@[simp] theorem State.setFrm_cfg : (s.setFrm x).cfg = s.cfg := rfl
@[simp] theorem State.setFrm_frm : (s.setFrm x).frm = x := rfl
@[simp] theorem State.setFrm_busRdata : (s.setFrm x).busRdata = s.busRdata := rfl
@[simp] theorem State.setFrm_inputs : (s.setFrm x).inputs = s.inputs := rfl
@[simp] theorem State.setFrm_freeCount : (s.setFrm x).freeCount = s.freeCount := rfl
end setFrm

section setBusRdata
variable (x : Option RegWord) (s : State cap)
@[simp] theorem State.setBusRdata_edge : (s.setBusRdata x).edge = s.edge := rfl
@[simp] theorem State.setBusRdata_dec : (s.setBusRdata x).dec = s.dec := rfl
@[simp] theorem State.setBusRdata_buf : (s.setBusRdata x).buf = s.buf := rfl
@[simp] theorem State.setBusRdata_cnt : (s.setBusRdata x).cnt = s.cnt := rfl
@[simp] theorem State.setBusRdata_rx : (s.setBusRdata x).rx = s.rx := rfl
@[simp] theorem State.setBusRdata_flags : (s.setBusRdata x).flags = s.flags := rfl
@[simp] theorem State.setBusRdata_cfg : (s.setBusRdata x).cfg = s.cfg := rfl
@[simp] theorem State.setBusRdata_frm : (s.setBusRdata x).frm = s.frm := rfl
@[simp] theorem State.setBusRdata_busRdata : (s.setBusRdata x).busRdata = x := rfl
@[simp] theorem State.setBusRdata_inputs : (s.setBusRdata x).inputs = s.inputs := rfl
@[simp] theorem State.setBusRdata_freeCount : (s.setBusRdata x).freeCount = s.freeCount := rfl
end setBusRdata

section setInputs
variable (x : List Cycle) (s : State cap)
@[simp] theorem State.setInputs_edge : (s.setInputs x).edge = s.edge := rfl
@[simp] theorem State.setInputs_dec : (s.setInputs x).dec = s.dec := rfl
@[simp] theorem State.setInputs_buf : (s.setInputs x).buf = s.buf := rfl
@[simp] theorem State.setInputs_cnt : (s.setInputs x).cnt = s.cnt := rfl
@[simp] theorem State.setInputs_rx : (s.setInputs x).rx = s.rx := rfl
@[simp] theorem State.setInputs_flags : (s.setInputs x).flags = s.flags := rfl
@[simp] theorem State.setInputs_cfg : (s.setInputs x).cfg = s.cfg := rfl
@[simp] theorem State.setInputs_frm : (s.setInputs x).frm = s.frm := rfl
@[simp] theorem State.setInputs_busRdata : (s.setInputs x).busRdata = s.busRdata := rfl
@[simp] theorem State.setInputs_inputs : (s.setInputs x).inputs = x := rfl
@[simp] theorem State.setInputs_freeCount : (s.setInputs x).freeCount = s.freeCount := rfl
end setInputs

section setFreeCount
variable (x : Nat) (s : State cap)
@[simp] theorem State.setFreeCount_edge : (s.setFreeCount x).edge = s.edge := rfl
@[simp] theorem State.setFreeCount_dec : (s.setFreeCount x).dec = s.dec := rfl
@[simp] theorem State.setFreeCount_buf : (s.setFreeCount x).buf = s.buf := rfl
@[simp] theorem State.setFreeCount_cnt : (s.setFreeCount x).cnt = s.cnt := rfl
@[simp] theorem State.setFreeCount_rx : (s.setFreeCount x).rx = s.rx := rfl
@[simp] theorem State.setFreeCount_flags : (s.setFreeCount x).flags = s.flags := rfl
@[simp] theorem State.setFreeCount_cfg : (s.setFreeCount x).cfg = s.cfg := rfl
@[simp] theorem State.setFreeCount_frm : (s.setFreeCount x).frm = s.frm := rfl
@[simp] theorem State.setFreeCount_busRdata : (s.setFreeCount x).busRdata = s.busRdata := rfl
@[simp] theorem State.setFreeCount_inputs : (s.setFreeCount x).inputs = s.inputs := rfl
@[simp] theorem State.setFreeCount_freeCount : (s.setFreeCount x).freeCount = x := rfl
end setFreeCount

@[simp] theorem State.decoderClear_edge (s : State cap) : s.decoderClear.edge = .reset := rfl
@[simp] theorem State.decoderClear_dec (s : State cap) : s.decoderClear.dec = .reset := rfl
@[simp] theorem State.decoderClear_buf (s : State cap) : s.decoderClear.buf = s.buf := rfl
@[simp] theorem State.decoderClear_cnt (s : State cap) : s.decoderClear.cnt = s.cnt := rfl
@[simp] theorem State.decoderClear_rx (s : State cap) : s.decoderClear.rx = s.rx := rfl
@[simp] theorem State.decoderClear_flags (s : State cap) : s.decoderClear.flags = s.flags := rfl
@[simp] theorem State.decoderClear_cfg (s : State cap) : s.decoderClear.cfg = s.cfg := rfl
@[simp] theorem State.decoderClear_frm (s : State cap) : s.decoderClear.frm = s.frm := rfl
@[simp] theorem State.decoderClear_busRdata (s : State cap) : s.decoderClear.busRdata = s.busRdata := rfl
@[simp] theorem State.decoderClear_inputs (s : State cap) : s.decoderClear.inputs = s.inputs := rfl
@[simp] theorem State.decoderClear_freeCount (s : State cap) : s.decoderClear.freeCount = s.freeCount := rfl

@[simp] theorem State.resetAll_edge (s : State cap) : s.resetAll.edge = .reset := rfl
@[simp] theorem State.resetAll_dec (s : State cap) : s.resetAll.dec = .reset := rfl
@[simp] theorem State.resetAll_buf (s : State cap) : s.resetAll.buf = freeBuffer s.freeCount := rfl
@[simp] theorem State.resetAll_cnt (s : State cap) : s.resetAll.cnt = .reset := rfl
@[simp] theorem State.resetAll_rx (s : State cap) : s.resetAll.rx = .reset := rfl
@[simp] theorem State.resetAll_flags (s : State cap) : s.resetAll.flags = .reset := rfl
@[simp] theorem State.resetAll_cfg (s : State cap) : s.resetAll.cfg = .reset := rfl
@[simp] theorem State.resetAll_frm (s : State cap) : s.resetAll.frm = .idle := rfl
@[simp] theorem State.resetAll_busRdata (s : State cap) : s.resetAll.busRdata = some (Config.freeRdata s.freeCount) := rfl
@[simp] theorem State.resetAll_inputs (s : State cap) : s.resetAll.inputs = s.inputs := rfl
@[simp] theorem State.resetAll_freeCount (s : State cap) : s.resetAll.freeCount = s.freeCount + 1 := rfl

/-- Two states with equal fields are equal. -/
theorem State.eq_of_fields {s t : State cap} (h1 : s.edge = t.edge) (h2 : s.dec = t.dec) (h3 : s.buf = t.buf)
    (h4 : s.cnt = t.cnt) (h5 : s.rx = t.rx) (h6 : s.flags = t.flags) (h7 : s.cfg = t.cfg) (h8 : s.frm = t.frm)
    (h9 : s.busRdata = t.busRdata) (h10 : s.inputs = t.inputs) (h11 : s.freeCount = t.freeCount) : s = t := by
  cases s; cases t; simp_all

/-! ## Buffers -/

theorem Buffer.byte_eq_get (b : Buffer cap) (i : Nat) (h : i < cap) : b.byte i = b[i] := by
  simp [Buffer.byte, h]

theorem Buffer.byte_of_cap_le (b : Buffer cap) (i : Nat) (h : cap ≤ i) : b.byte i = 0 := by
  simp [Buffer.byte, Vector.getElem?_eq_none h]

/-- Two buffers with equal bytes are equal. -/
theorem Buffer.eq_of_bytes {b c : Buffer cap} (h : ∀ i, i < cap → b.byte i = c.byte i) : b = c := by
  apply Vector.ext
  intro i hi
  rw [← Buffer.byte_eq_get b i hi, ← Buffer.byte_eq_get c i hi, h i hi]

theorem Buffer.byte_put (b : Buffer cap) (i j : Nat) (v : Byte) :
    (b.put i v).byte j = if j = i ∧ i < cap then v else b.byte j := by
  rcases Nat.lt_or_ge j cap with hj | hj
  · rw [Buffer.byte_eq_get _ _ hj, Buffer.byte_eq_get _ _ hj, Buffer.put, Vector.getElem_setIfInBounds hj]
    by_cases h : i = j
    · subst h; simp [hj]
    · simp [h, Ne.symm h]
  · rw [Buffer.byte_of_cap_le _ _ hj, Buffer.byte_of_cap_le _ _ hj, if_neg (by omega)]

@[simp] theorem Buffer.byte_put_self (b : Buffer cap) (i : Nat) (v : Byte) (h : i < cap) :
    (b.put i v).byte i = v := by
  rw [Buffer.byte_put, if_pos ⟨rfl, h⟩]

theorem Buffer.byte_put_of_ne (b : Buffer cap) (i j : Nat) (v : Byte) (h : j ≠ i) : (b.put i v).byte j = b.byte j := by
  rw [Buffer.byte_put, if_neg (fun h' => h h'.1)]

/-- Byte `i` of a copy of the first `n` bytes (R167). -/
theorem Buffer.byte_first (b : Buffer cap) (n i : Nat) : (b.first n).byte i = if i < n then b.byte i else 0 := by
  rcases Nat.lt_or_ge i cap with hi | hi
  · rw [Buffer.byte_eq_get _ _ hi, Buffer.first, Vector.getElem_ofFn]
  · rw [Buffer.byte_of_cap_le _ _ hi, Buffer.byte_of_cap_le _ _ hi, ite_self]

@[simp] theorem Buffer.byte_zero (i : Nat) : (Buffer.zero : Buffer cap).byte i = 0 := by
  rcases Nat.lt_or_ge i cap with hi | hi
  · rw [Buffer.byte_eq_get _ _ hi, Buffer.zero, Vector.getElem_replicate]
  · rw [Buffer.byte_of_cap_le _ _ hi]

/-- Copies of buffers that agree below `n` are equal. -/
theorem Buffer.first_congr {b c : Buffer cap} {n : Nat} (h : ∀ i, i < n → b.byte i = c.byte i) : b.first n = c.first n := by
  apply Buffer.eq_of_bytes
  intro i _
  rw [Buffer.byte_first, Buffer.byte_first]
  split
  · exact h i ‹_›
  · rfl

end Sys2Proof.Machine
end

