-- ==== Sys2Proof/Laws/Stages.lean ====
section
/-! SUPPORT. What each stage of the sample step can do, said once (R100 to R169). -/

namespace Sys2Proof.Machine

variable {cap : Nat}

/-! ## Polarity and run length -/

/-- R100: the polarity is the complement of bit 15, for the sample 0x0000 too. -/
theorem polarity_eq (w : SampleWord) : polarity w = !w.getLsbD 15 := by
  unfold polarity smpSign
  split
  · subst_vars; decide
  · rfl

theorem polarity_hi (m : BitVec 15) : polarity (smpWord 0 m) = true := by
  rw [polarity_eq, smpWord, BitVec.getLsbD_append]; simp

theorem polarity_lo (m : BitVec 15) : polarity (smpWord 1 m) = false := by
  rw [polarity_eq, smpWord, BitVec.getLsbD_append]; simp

theorem execSmpHi_eq (m : BitVec 15) (s : State cap) : execSmpHi m s = .next (polarityStep true s) := by
  rw [execSmpHi, sampleStep, polarity_hi]

theorem execSmpLo_eq (m : BitVec 15) (s : State cap) : execSmpLo m s = .next (polarityStep false s) := by
  rw [execSmpLo, sampleStep, polarity_lo]

/-- R104: one more sample, never above 0xFFFF. -/
theorem satSucc_toNat (r : BitVec 16) : (satSucc r).toNat = min (r.toNat + 1) 0xFFFF := by
  have := r.isLt
  simp only [satSucc, Config.runLenMax, BitVec.toNat_ofNat]
  omega

/-- The saturating successor as a bit vector (R104). -/
theorem satSucc_eq (r : BitVec 16) : satSucc r = if r = 0xFFFF then 0xFFFF else r + 1 := by
  apply BitVec.eq_of_toNat_eq
  rw [satSucc_toNat]
  have := r.isLt
  split
  · subst_vars; decide
  · rename_i h
    have h' : r.toNat ≠ 0xFFFF := fun e => h (BitVec.eq_of_toNat_eq e)
    rw [BitVec.toNat_add, Nat.mod_eq_of_lt] <;> simp <;> omega

/-! ## EdgeStep -/

/-- The run length after a sample: it grows while the polarity stays and starts at 1 otherwise (R102). -/
def nextRun (pol : Bool) (e : EdgeState) : BitVec 16 := if e.primed && e.prevPol == pol then satSucc e.runLen else 1

/-- The event of a sample: a flip of a primed detector (R102). -/
def edgeEvent (pol : Bool) (e : EdgeState) : EdgeEvent :=
  if e.primed && pol != e.prevPol then { kind := if pol then .rising else .falling, width := e.runLen } else .quiet

/-- R102: all that EdgeStep does. -/
theorem edgeStep_eq (pol : Bool) (e : EdgeState) :
    edgeStep pol e = ({ primed := true, prevPol := pol, runLen := nextRun pol e }, edgeEvent pol e) := by
  obtain ⟨p, q, r⟩ := e
  cases p <;> cases q <;> cases pol <;> rfl

theorem nextRun_pos (pol : Bool) (e : EdgeState) : 1 ≤ (nextRun pol e).toNat := by
  unfold nextRun
  split
  · rw [satSucc_toNat]; omega
  · decide

/-- A high sample never makes a falling edge (R106). -/
theorem edgeEvent_true_kind (e : EdgeState) : (edgeEvent true e).kind ≠ .falling := by
  unfold edgeEvent
  split <;> simp [EdgeEvent.quiet]

/-- A low sample makes a falling edge exactly after a high sample (R107). -/
theorem edgeEvent_false_kind (e : EdgeState) : (edgeEvent false e).kind = .falling ↔ e.primed = true ∧ e.prevPol = true := by
  obtain ⟨p, q, r⟩ := e
  cases p <;> cases q <;> simp [edgeEvent, EdgeEvent.quiet]

/-- The width of a falling edge is the run that it ends (R103). -/
theorem edgeEvent_false_width (e : EdgeState) (h : e.primed = true ∧ e.prevPol = true) :
    (edgeEvent false e).width = e.runLen := by
  simp [edgeEvent, h.1, h.2]

/-! ## SyncStep -/

/-- R120: all that SyncStep does to a high sample. -/
theorem syncStep_true (s : State cap) :
    syncStep true s =
      if s.cfg.syncMin.toNat ≤ s.edge.runLen.toNat then
        { s with dec := .acquired,
                 flags := { s.flags with resync := s.flags.resync || (s.dec.sync && !s.dec.firstEdge) } }
      else s := by
  simp only [syncStep, syncFound, Bool.true_and, decide_eq_true_eq]
  rfl

/-- R123: a low sample does not enter SyncStep. -/
@[simp] theorem syncStep_false (s : State cap) : syncStep false s = s := rfl

/-! ## The sample step -/

/-- The edge detector after an accepted sample of a polarity (R102). -/
def edgeAfter (pol : Bool) (e : EdgeState) : EdgeState := { primed := true, prevPol := pol, runLen := nextRun pol e }

/-- R101: a sample presented while CTRL.EN = 0 is lost. -/
theorem polarityStep_disabled (pol : Bool) (s : State cap) (h : s.cfg.en = false) : polarityStep pol s = s := by
  simp [polarityStep, h]

theorem polarityStep_enabled (pol : Bool) (s : State cap) (h : s.cfg.en = true) :
    polarityStep pol s = bitStep (edgeEvent pol s.edge) (syncStep pol (s.setEdge (edgeAfter pol s.edge))) := by
  simp [polarityStep, h, edgeStep_eq, edgeAfter]

theorem bitStep_of_not_falling (ev : EdgeEvent) (s : State cap) (h : ev.kind ≠ .falling) : bitStep ev s = s := by
  simp [bitStep, h]

/-- R106: an accepted high sample is EdgeStep and SyncStep. -/
theorem polarityStep_true (s : State cap) (h : s.cfg.en = true) :
    polarityStep true s = syncStep true (s.setEdge (edgeAfter true s.edge)) := by
  rw [polarityStep_enabled _ _ h, bitStep_of_not_falling _ _ (edgeEvent_true_kind _)]

/-- R107: an accepted low sample is EdgeStep and BitStep. -/
theorem polarityStep_false (s : State cap) (h : s.cfg.en = true) :
    polarityStep false s = bitStep (edgeEvent false s.edge) (s.setEdge (edgeAfter false s.edge)) := by
  rw [polarityStep_enabled _ _ h, syncStep_false]

/-- R146: a low sample that ends no high run, or comes without sync, acts on the edge detector only. -/
theorem polarityStep_false_ignored (s : State cap) (h : s.cfg.en = true)
    (hi : s.dec.sync = false ∨ ¬ (s.edge.primed = true ∧ s.edge.prevPol = true)) :
    polarityStep false s = s.setEdge (edgeAfter false s.edge) := by
  rw [polarityStep_false s h]
  rcases hi with hi | hi
  · simp [bitStep, hi]
  · exact bitStep_of_not_falling _ _ (fun hk => hi ((edgeEvent_false_kind _).1 hk))

/-- R141: the first falling edge after sync is discarded. -/
theorem polarityStep_false_first (s : State cap) (h : s.cfg.en = true) (hs : s.dec.sync = true)
    (hf : s.dec.firstEdge = true) (he : s.edge.primed = true ∧ s.edge.prevPol = true) :
    polarityStep false s = (s.setEdge (edgeAfter false s.edge)).setDec { s.dec with firstEdge := false } := by
  rw [polarityStep_false s h]
  simp [bitStep, (edgeEvent_false_kind s.edge).2 he, hs, hf]

/-- R142: every later falling edge gives a bit. -/
theorem polarityStep_false_data (s : State cap) (h : s.cfg.en = true) (hs : s.dec.sync = true)
    (hf : s.dec.firstEdge = false) (he : s.edge.primed = true ∧ s.edge.prevPol = true) :
    polarityStep false s = takeBit (classify s.edge.runLen s.cfg.bitThresh) (s.setEdge (edgeAfter false s.edge)) := by
  rw [polarityStep_false s h]
  simp [bitStep, (edgeEvent_false_kind s.edge).2 he, hs, hf, edgeEvent_false_width s.edge he]

/-- All that an accepted sample can do: the five cases of R120, R140 and R146. -/
theorem polarityStep_cases (pol : Bool) (s : State cap) :
    (s.cfg.en = false ∧ polarityStep pol s = s) ∨
    (s.cfg.en = true ∧ pol = true ∧ polarityStep pol s = syncStep true (s.setEdge (edgeAfter true s.edge))) ∨
    (s.cfg.en = true ∧ pol = false ∧ (s.dec.sync = false ∨ ¬ (s.edge.primed = true ∧ s.edge.prevPol = true)) ∧
      polarityStep pol s = s.setEdge (edgeAfter false s.edge)) ∨
    (s.cfg.en = true ∧ pol = false ∧ s.dec.sync = true ∧ s.dec.firstEdge = true ∧
      polarityStep pol s = (s.setEdge (edgeAfter false s.edge)).setDec { s.dec with firstEdge := false }) ∨
    (s.cfg.en = true ∧ pol = false ∧ s.dec.sync = true ∧ s.dec.firstEdge = false ∧
      (s.edge.primed = true ∧ s.edge.prevPol = true) ∧
      polarityStep pol s = takeBit (classify s.edge.runLen s.cfg.bitThresh) (s.setEdge (edgeAfter false s.edge))) := by
  cases h : s.cfg.en
  · exact .inl ⟨rfl, polarityStep_disabled pol s h⟩
  cases pol
  · by_cases he : s.edge.primed = true ∧ s.edge.prevPol = true
    · cases hs : s.dec.sync
      · exact .inr (.inr (.inl ⟨rfl, rfl, .inl rfl, polarityStep_false_ignored s h (.inl hs)⟩))
      · cases hf : s.dec.firstEdge
        · exact .inr (.inr (.inr (.inr ⟨rfl, rfl, rfl, rfl, he, polarityStep_false_data s h hs hf he⟩)))
        · exact .inr (.inr (.inr (.inl ⟨rfl, rfl, rfl, rfl, polarityStep_false_first s h hs hf he⟩)))
    · exact .inr (.inr (.inl ⟨rfl, rfl, .inr he, polarityStep_false_ignored s h (.inr he)⟩))
  · exact .inr (.inl ⟨rfl, rfl, polarityStep_true s h⟩)

/-! ## Bits and bytes -/

/-- R143: the accumulator moves up one place and takes the bit at the bottom. -/
theorem shiftIn_toNat (a : Byte) (b : Bool) : (shiftIn a b).toNat = (2 * a.toNat + b.toNat) % 256 := by
  have key : shiftIn a b = (a <<< 1) ||| (BitVec.ofBool b).setWidth 8 := by
    apply BitVec.eq_of_getLsbD_eq
    intro i hi
    simp only [shiftIn, BitVec.getLsbD_append, BitVec.getLsbD_extractLsb', BitVec.getLsbD_or, BitVec.getLsbD_shiftLeft,
      BitVec.getLsbD_setWidth]
    rcases Nat.eq_zero_or_pos i with rfl | hp
    · simp
    · have : ¬ i < 1 := by omega
      have h2 : i - 1 < 7 := by omega
      simp [this, h2, hi]
      intro h3; omega
  rw [key]
  cases b
  · simp [BitVec.toNat_shiftLeft, Nat.shiftLeft_eq, Nat.mul_comm]
  · have hor : (a <<< 1) ||| (BitVec.ofBool true).setWidth 8 = (a <<< 1) + (BitVec.ofBool true).setWidth 8 := by
      symm; apply BitVec.add_eq_or_of_and_eq_zero
      apply BitVec.eq_of_getLsbD_eq
      intro i hi
      rcases Nat.eq_zero_or_pos i with rfl | hp
      · simp
      · simp; intros; omega
    rw [hor, BitVec.toNat_add]
    simp [BitVec.toNat_shiftLeft, Nat.shiftLeft_eq, Nat.mul_comm]

/-- R143: before the eighth bit, a bit only moves the accumulator and the count. -/
theorem takeBit_of_ne (b : Bool) (s : State cap) (h : s.dec.bitCnt ≠ 7) :
    takeBit b s = s.setDec { s.dec with acc := shiftIn s.dec.acc b, bitCnt := s.dec.bitCnt + 1 } := by
  have : s.dec.bitCnt + 1 ≠ 8 := by
    intro h'; apply h; generalize s.dec.bitCnt = x at *; revert x; decide
  exact if_neg this

/-- The buffer after a byte commit (R144). -/
def bufAfterBit (b : Bool) (s : State cap) : Buffer cap := s.buf.put s.dec.byteIdx.toNat (shiftIn s.dec.acc b)

/-- R144: the eighth bit commits a byte; short of PKT_LEN that is all. -/
theorem takeBit_commit (b : Bool) (s : State cap) (h : s.dec.bitCnt = 7) (hl : s.dec.byteIdx + 1 ≠ s.cfg.pktLen) :
    takeBit b s = (s.setBuf (bufAfterBit b s)).setDec
      { s.dec with byteIdx := s.dec.byteIdx + 1, bitCnt := 0, acc := 0 } := by
  have h8 : s.dec.bitCnt + 1 = 8 := by rw [h]; rfl
  exact (if_pos h8).trans (if_neg hl)

/-- R145: the byte that makes the packet whole runs Validate and returns the decoder to its unsynchronised state. -/
theorem takeBit_complete (b : Bool) (s : State cap) (h : s.dec.bitCnt = 7) (hl : s.dec.byteIdx + 1 = s.cfg.pktLen) :
    takeBit b s = (validate (s.setBuf (bufAfterBit b s))).setDec .reset := by
  have h8 : s.dec.bitCnt + 1 = 8 := by rw [h]; rfl
  exact (if_pos h8).trans (if_pos hl)

/-- All that a data bit can do: move the accumulator, commit a byte, or complete a packet (R143 to R145). -/
theorem takeBit_cases (b : Bool) (s : State cap) :
    (s.dec.bitCnt ≠ 7 ∧ takeBit b s = s.setDec { s.dec with acc := shiftIn s.dec.acc b, bitCnt := s.dec.bitCnt + 1 }) ∨
    (s.dec.bitCnt = 7 ∧ s.dec.byteIdx + 1 ≠ s.cfg.pktLen ∧ takeBit b s = (s.setBuf (bufAfterBit b s)).setDec
      { s.dec with byteIdx := s.dec.byteIdx + 1, bitCnt := 0, acc := 0 }) ∨
    (s.dec.bitCnt = 7 ∧ s.dec.byteIdx + 1 = s.cfg.pktLen ∧
      takeBit b s = (validate (s.setBuf (bufAfterBit b s))).setDec .reset) := by
  by_cases h : s.dec.bitCnt = 7
  · by_cases hl : s.dec.byteIdx + 1 = s.cfg.pktLen
    · exact .inr (.inr ⟨h, hl, takeBit_complete b s h hl⟩)
    · exact .inr (.inl ⟨h, hl, takeBit_commit b s h hl⟩)
  · exact .inl ⟨h, takeBit_of_ne b s h⟩

/-! ## Validate -/

/-- The verdict bits of the packet in the buffer (R161 to R164). -/
def packetOk (s : State cap) : Bool := chkOk s.buf s.cfg.pktLen.toNat s.cfg.chkOffset
def packetAccepted (s : State cap) : Bool := accepts (packetOk s) s.cfg.afEn (addrMatch s.buf s.cfg.addrFilter)

/-- R160: all that Validate does. -/
theorem validate_eq (s : State cap) :
    validate s =
      { s with cnt := countPacket (packetOk s) (packetAccepted s) s.cnt,
               flags := { s.flags with lastResult := verdict (packetOk s) (packetAccepted s),
                                       overrun := s.flags.overrun || (packetAccepted s && s.rx.full) },
               rx := latchPacket (packetAccepted s) s.buf s.cfg.pktLen s.rx,
               frm := frameOf (verdict (packetOk s) (packetAccepted s)) s.buf s.cfg.pktLen } := rfl

@[simp] theorem validate_edge (s : State cap) : (validate s).edge = s.edge := rfl
@[simp] theorem validate_dec (s : State cap) : (validate s).dec = s.dec := rfl
@[simp] theorem validate_buf (s : State cap) : (validate s).buf = s.buf := rfl
@[simp] theorem validate_cnt (s : State cap) : (validate s).cnt = countPacket (packetOk s) (packetAccepted s) s.cnt := rfl
@[simp] theorem validate_rx (s : State cap) :
    (validate s).rx = latchPacket (packetAccepted s) s.buf s.cfg.pktLen s.rx := rfl
@[simp] theorem validate_flags (s : State cap) :
    (validate s).flags = { s.flags with lastResult := verdict (packetOk s) (packetAccepted s),
                                        overrun := s.flags.overrun || (packetAccepted s && s.rx.full) } := rfl
@[simp] theorem validate_cfg (s : State cap) : (validate s).cfg = s.cfg := rfl
@[simp] theorem validate_frm (s : State cap) :
    (validate s).frm = frameOf (verdict (packetOk s) (packetAccepted s)) s.buf s.cfg.pktLen := rfl
@[simp] theorem validate_busRdata (s : State cap) : (validate s).busRdata = s.busRdata := rfl
@[simp] theorem validate_inputs (s : State cap) : (validate s).inputs = s.inputs := rfl
@[simp] theorem validate_freeCount (s : State cap) : (validate s).freeCount = s.freeCount := rfl

/-- R164: only a packet that passed the checksum is accepted. -/
theorem accepts_imp_ok {ok af hit : Bool} (h : accepts ok af hit = true) : ok = true := by
  cases ok <;> simp_all [accepts]

/-- R161: the modulo-256 sum as a number. -/
theorem byteSum_toNat (b : Buffer cap) (n : Nat) :
    (byteSum b n).toNat = (∑ i ∈ Finset.range n, (b.byte i).toNat) % 256 := by
  induction n with
  | zero => simp [byteSum]
  | succ n ih =>
    rw [byteSum, BitVec.toNat_add, ih, Finset.sum_range_succ]
    omega

/-- The sum depends on the summed bytes only. -/
theorem byteSum_congr {b c : Buffer cap} {n : Nat} (h : ∀ i, i < n → b.byte i = c.byte i) : byteSum b n = byteSum c n := by
  induction n with
  | zero => rfl
  | succ n ih => rw [byteSum, byteSum, ih (fun i hi => h i (by omega)), h n (by omega)]

/-- R90: bit `8i+k` of the packed bytes is bit `k` of byte `i`. -/
theorem getLsbD_packBytes (b : Buffer cap) (n i k : Nat) (hi : i < n) (hk : k < 8) :
    (packBytes b n).getLsbD (8 * i + k) = (b.byte i).getLsbD k := by
  induction n with
  | zero => omega
  | succ n ih =>
    rw [packBytes, BitVec.getLsbD_cast, BitVec.getLsbD_append]
    split
    · exact ih (by omega)
    · have : i = n := by omega
      subst this
      congr 1
      omega

/-- The packed bytes depend on the bytes only. -/
theorem packBytes_congr {b c : Buffer cap} {n : Nat} (h : ∀ i, i < n → b.byte i = c.byte i) :
    packBytes b n = packBytes c n := by
  induction n with
  | zero => rfl
  | succ n ih => rw [packBytes, packBytes, ih (fun i hi => h i (by omega)), h n (by omega)]

end Sys2Proof.Machine
end

