-- ==== Sys2Proof/Laws/Exec.lean ====
section
/-! SUPPORT. What an instruction can do, what a cycle can do, and how an invariant of both is packaged. -/

namespace Sys2Proof.Machine

variable {cap : Nat}

/-! ## The parts of a write of CTRL (R212) -/

@[simp] theorem State.clearCounters_edge (d : RegWord) (s : State cap) : (s.clearCounters d).edge = s.edge := by
  unfold State.clearCounters; split <;> rfl
@[simp] theorem State.clearCounters_dec (d : RegWord) (s : State cap) : (s.clearCounters d).dec = s.dec := by
  unfold State.clearCounters; split <;> rfl
@[simp] theorem State.clearCounters_buf (d : RegWord) (s : State cap) : (s.clearCounters d).buf = s.buf := by
  unfold State.clearCounters; split <;> rfl
@[simp] theorem State.clearCounters_cnt (d : RegWord) (s : State cap) :
    (s.clearCounters d).cnt = if ctrlCntClr d = true then .reset else s.cnt := by
  unfold State.clearCounters; split <;> rfl
@[simp] theorem State.clearCounters_rx (d : RegWord) (s : State cap) : (s.clearCounters d).rx = s.rx := by
  unfold State.clearCounters; split <;> rfl
@[simp] theorem State.clearCounters_flags (d : RegWord) (s : State cap) : (s.clearCounters d).flags = s.flags := by
  unfold State.clearCounters; split <;> rfl
@[simp] theorem State.clearCounters_cfg (d : RegWord) (s : State cap) : (s.clearCounters d).cfg = s.cfg := by
  unfold State.clearCounters; split <;> rfl
@[simp] theorem State.clearCounters_frm (d : RegWord) (s : State cap) : (s.clearCounters d).frm = s.frm := by
  unfold State.clearCounters; split <;> rfl
@[simp] theorem State.clearCounters_busRdata (d : RegWord) (s : State cap) : (s.clearCounters d).busRdata = s.busRdata := by
  unfold State.clearCounters; split <;> rfl
@[simp] theorem State.clearCounters_inputs (d : RegWord) (s : State cap) : (s.clearCounters d).inputs = s.inputs := by
  unfold State.clearCounters; split <;> rfl
@[simp] theorem State.clearCounters_freeCount (d : RegWord) (s : State cap) : (s.clearCounters d).freeCount = s.freeCount := by
  unfold State.clearCounters; split <;> rfl
@[simp] theorem State.disableClear_edge (d : RegWord) (s : State cap) :
    (s.disableClear d).edge = if s.cfg.en = true ∧ ctrlEn d = false then .reset else s.edge := by
  unfold State.disableClear; cases s.cfg.en <;> cases ctrlEn d <;> rfl
@[simp] theorem State.disableClear_dec (d : RegWord) (s : State cap) :
    (s.disableClear d).dec = if s.cfg.en = true ∧ ctrlEn d = false then .reset else s.dec := by
  unfold State.disableClear; cases s.cfg.en <;> cases ctrlEn d <;> rfl
@[simp] theorem State.disableClear_buf (d : RegWord) (s : State cap) : (s.disableClear d).buf = s.buf := by
  unfold State.disableClear; split <;> rfl
@[simp] theorem State.disableClear_cnt (d : RegWord) (s : State cap) : (s.disableClear d).cnt = s.cnt := by
  unfold State.disableClear; split <;> rfl
@[simp] theorem State.disableClear_rx (d : RegWord) (s : State cap) : (s.disableClear d).rx = s.rx := by
  unfold State.disableClear; split <;> rfl
@[simp] theorem State.disableClear_flags (d : RegWord) (s : State cap) : (s.disableClear d).flags = s.flags := by
  unfold State.disableClear; split <;> rfl
@[simp] theorem State.disableClear_cfg (d : RegWord) (s : State cap) : (s.disableClear d).cfg = s.cfg := by
  unfold State.disableClear; split <;> rfl
@[simp] theorem State.disableClear_frm (d : RegWord) (s : State cap) : (s.disableClear d).frm = s.frm := by
  unfold State.disableClear; split <;> rfl
@[simp] theorem State.disableClear_busRdata (d : RegWord) (s : State cap) : (s.disableClear d).busRdata = s.busRdata := by
  unfold State.disableClear; split <;> rfl
@[simp] theorem State.disableClear_inputs (d : RegWord) (s : State cap) : (s.disableClear d).inputs = s.inputs := by
  unfold State.disableClear; split <;> rfl
@[simp] theorem State.disableClear_freeCount (d : RegWord) (s : State cap) : (s.disableClear d).freeCount = s.freeCount := by
  unfold State.disableClear; split <;> rfl

/-! ## Instructions -/

/-- The unlocked write, said once (R202). -/
theorem writeUnlocked_eq (f : ConfigRegs → ConfigRegs) (s : State cap) :
    writeUnlocked f s = if s.cfg.en = true then s else s.setCfg (f s.cfg) := by
  unfold writeUnlocked
  split <;> rfl

/-- What a write of one of the five locked registers leaves of the configuration (R202, R215 to R224). -/
structure LockedWrite (cap : Nat) (c c' : ConfigRegs) : Prop where
  en : c'.en = c.en
  afEn : c'.afEn = c.afEn
  ie : c'.ie = c.ie
  pktLen : c'.pktLen = c.pktLen ∨ Config.pktLenMin ≤ c'.pktLen.toNat ∧ c'.pktLen.toNat ≤ cap

/-- PKT_LEN keeps its value or takes a legal one (R43, R220). -/
theorem pktLenWritten_locked (d : RegWord) (c : ConfigRegs) : LockedWrite cap c (pktLenWritten cap d c) := by
  unfold pktLenWritten
  split
  · rename_i h
    exact ⟨rfl, rfl, rfl, .inr (by simpa [pktLenLegal] using h)⟩
  · exact ⟨rfl, rfl, rfl, .inl rfl⟩

/-- All that an instruction can do, by the groups of R95. -/
inductive Effect (s : State cap) : Instr → State cap → Prop where
  | high (m) : Effect s (.smpHi m) (polarityStep true s)
  | low (m) : Effect s (.smpLo m) (polarityStep false s)
  | read (i v) (h : (encode i).bits.getLsbD 40 = false) (hb : (encode i).format = .bus) :
      Effect s i (s.setBusRdata (some v))
  | control (d) : Effect s (.wrCtrl d) (((s.clearCounters d).disableClear d).setCfg (ctrlWritten d s.cfg))
  | status (d) : Effect s (.wrStatus d) (s.setFlags { s.flags with
      overrun := s.flags.overrun && !statusOverrun d, resync := s.flags.resync && !statusResync d })
  | config (i c) (h : LockedWrite cap s.cfg c) (hp : i.opcode ≠ .wrRxPop) (hc : i.opcode ≠ .wrCtrl) (hr : i ≠ .rst) :
      Effect s i (if s.cfg.en = true then s else s.setCfg c)
  | pop (d) : Effect s (.wrRxPop d) (s.setRx { s.rx with full := false })
  | ignored (a d) : Effect s (.wrIgnored a d) s
  | reset : Effect s .rst s.resetAll

/-- Bit 40 of a BUS word is `bus_we` (R92). -/
theorem busWord_bit40 (we : BitVec 1) (a : BusAddr) (d : RegWord) : (busWord we a d).getLsbD 40 = we.getLsbD 0 := by
  rw [busWord, BitVec.getLsbD_append, if_neg (by decide), BitVec.getLsbD_append]; rfl

/-- The one inversion lemma of `execAt`. -/
theorem execAt_effect {i : Instr} {s t : State cap} (h : execAt i s = .next t) : Effect s i t := by
  cases i with
  | smpHi m => rw [execAt, execSmpHi_eq] at h; cases h; exact .high m
  | smpLo m => rw [execAt, execSmpLo_eq] at h; cases h; exact .low m
  | wrCtrl d => cases h; exact .control d
  | wrStatus d => cases h; exact .status d
  | wrRxPop d => cases h; exact .pop d
  | wrIgnored a d => cases h; exact .ignored a d
  | rst => cases h; exact .reset
  | wrPktLen d =>
    cases h; rw [writeUnlocked_eq]
    exact .config _ _ (pktLenWritten_locked d s.cfg) (by simp [Instr.opcode]) (by simp [Instr.opcode]) (by simp)
  | wrSyncMin d =>
    cases h; rw [writeUnlocked_eq]
    exact .config _ _ ⟨rfl, rfl, rfl, .inl rfl⟩ (by simp [Instr.opcode]) (by simp [Instr.opcode]) (by simp)
  | wrBitThresh d =>
    cases h; rw [writeUnlocked_eq]
    exact .config _ _ ⟨rfl, rfl, rfl, .inl rfl⟩ (by simp [Instr.opcode]) (by simp [Instr.opcode]) (by simp)
  | wrChkOffset d =>
    cases h; rw [writeUnlocked_eq]
    exact .config _ _ ⟨rfl, rfl, rfl, .inl rfl⟩ (by simp [Instr.opcode]) (by simp [Instr.opcode]) (by simp)
  | wrAddrFilter d =>
    cases h; rw [writeUnlocked_eq]
    exact .config _ _ ⟨rfl, rfl, rfl, .inl rfl⟩ (by simp [Instr.opcode]) (by simp [Instr.opcode]) (by simp)
  | rdCtrl d | rdStatus d | rdSyncMin d | rdBitThresh d | rdPktLen d | rdChkOffset d | rdAddrFilter d | rdPktTotal d
  | rdPktChkOk d | rdPktAddrOk d | rdRxLen d | rdDbg d | rdRunLen d | rdRxByte k d | rdZero a d =>
    cases h; exact .read _ _ (busWord_bit40 0 _ d) rfl

/-- This hardware's dispatch is the one of every capacity, at its own (R6). -/
theorem exec_eq_execAt (i : Instr) (s : State) : exec i s = execAt i s := by cases i <;> rfl

/-- The inversion lemma of `exec`. -/
theorem exec_effect {i : Instr} {s t : State} (h : exec i s = .next t) : Effect s i t :=
  execAt_effect (exec_eq_execAt i s ▸ h)

/-! ## Cycles -/

/-- What every instruction keeps, a sequence of instructions keeps. -/
theorem runInstrs_keeps {P : State cap → Prop} {ex : Instr → State cap → Host.Outcome (State cap) Fault Refusal}
    (h : ∀ i s t, P s → ex i s = .next t → P t) :
    ∀ (is : List Instr) (s t : State cap), P s → runInstrs ex is s = .next t → P t := by
  intro is
  induction is with
  | nil => intro s t hs ht; cases ht; exact hs
  | cons i is ih =>
    intro s t hs ht
    rw [runInstrs] at ht
    split at ht
    · rename_i u hu
      exact ih u t (h i s u hs hu) ht
    · cases ht
    · cases ht

/-- An invariant of the start of a cycle and of every instruction is kept by every step of every capacity. -/
theorem stepAt_keeps {P : State cap → Prop} (hb : ∀ s, P s → P s.beginCycle)
    (h : ∀ i s t, P s → execAt i s = .next t → P t) (s t : State cap) (hs : P s) (ht : stepAt s = .next t) : P t :=
  runInstrs_keeps h _ _ _ (hb s hs) ht

/-- An invariant of the start of a cycle and of every instruction is kept by every step. -/
theorem step_keeps {P : State → Prop} (hb : ∀ s, P s → P s.beginCycle) (h : ∀ i s t, P s → exec i s = .next t → P t)
    (s t : State) (hs : P s) (ht : step s = .next t) : P t :=
  runInstrs_keeps h _ _ _ (hb s hs) ht

@[simp] theorem State.beginCycle_edge (s : State cap) : s.beginCycle.edge = s.edge := rfl
@[simp] theorem State.beginCycle_dec (s : State cap) : s.beginCycle.dec = s.dec := rfl
@[simp] theorem State.beginCycle_buf (s : State cap) : s.beginCycle.buf = s.buf := rfl
@[simp] theorem State.beginCycle_cnt (s : State cap) : s.beginCycle.cnt = s.cnt := rfl
@[simp] theorem State.beginCycle_rx (s : State cap) : s.beginCycle.rx = s.rx := rfl
@[simp] theorem State.beginCycle_flags (s : State cap) : s.beginCycle.flags = s.flags := rfl
@[simp] theorem State.beginCycle_cfg (s : State cap) : s.beginCycle.cfg = s.cfg := rfl
@[simp] theorem State.beginCycle_frm (s : State cap) : s.beginCycle.frm = .idle := rfl
@[simp] theorem State.beginCycle_busRdata (s : State cap) : s.beginCycle.busRdata = none := rfl
@[simp] theorem State.beginCycle_inputs (s : State cap) : s.beginCycle.inputs = s.inputs.tail := rfl
@[simp] theorem State.beginCycle_freeCount (s : State cap) : s.beginCycle.freeCount = s.freeCount := rfl

/-- A cycle whose pins carry nothing, one transaction, two, or RST (R81). -/
theorem cycleInstrs_cases (c : Cycle) :
    (c.rst = 1 ∧ cycleInstrs c = [.rst]) ∨
    (c.rst = 0 ∧ c.bus = none ∧ c.smp = none ∧ cycleInstrs c = []) ∨
    (∃ b, c.rst = 0 ∧ c.bus = some b ∧ c.smp = none ∧ cycleInstrs c = [decodeBus b]) ∨
    (∃ x, c.rst = 0 ∧ c.bus = none ∧ c.smp = some x ∧ cycleInstrs c = [decodeSmp x]) ∨
    (∃ b x, c.rst = 0 ∧ c.bus = some b ∧ c.smp = some x ∧ cycleInstrs c = [decodeBus b, decodeSmp x]) := by
  obtain ⟨r, b, x⟩ := c
  have hr : r = 0 ∨ r = 1 := by revert r; decide
  rcases hr with rfl | rfl
  · cases b <;> cases x <;> simp [cycleInstrs, decodePin]
  · left; simp [cycleInstrs, decodePin]

end Sys2Proof.Machine
end

