-- ==== Sys2Proof/Laws/PerInstr.lean ====
section
/-! SUPPORT. Families of statements with one lemma for each instruction. -/

namespace Sys2Proof.Laws.RowMatch

/-- The encoded word of the instruction lies in the instruction's own row of R95: some row of that opcode accepts it. -/
def Statement (i : Instr) : Prop := ∃ r ∈ opcodeRows, r.opcode = i.opcode ∧ r.accepts (encode i) = true

/-- A row of one address accepts the words of that address. -/
theorem accepts_named (o : Opcode) (we : BitVec 1) (a : BusAddr) (d : RegWord) :
    OpRow.accepts ⟨o, .bus, busWord we a 0, 0x1FF00000000⟩ (.bus (busWord we a d)) = true := by
  simp only [OpRow.accepts, TxWord.format, TxWord.bits, Bool.and_eq_true, beq_iff_eq, true_and]
  exact (mask_named we we a a d).2 ⟨rfl, rfl⟩

/-- A catch-all row accepts every word of its direction. -/
theorem accepts_catchAll (o : Opcode) (we : BitVec 1) (a : BusAddr) (d : RegWord) :
    OpRow.accepts ⟨o, .bus, busWord we 0 0, 0x10000000000⟩ (.bus (busWord we a d)) = true := by
  simp only [OpRow.accepts, TxWord.format, TxWord.bits, Bool.and_eq_true, beq_iff_eq, true_and]
  exact (mask_catchAll we we a d).2 rfl

/-- A SMP row accepts the words of its sign bit. -/
theorem accepts_smp (o : Opcode) (s : BitVec 1) (m : BitVec 15) :
    OpRow.accepts ⟨o, .smp, if s = 0 then 0 else 0x8000, 0x8000⟩ (.smp (smpWord s m)) = true := by
  simp only [OpRow.accepts, TxWord.format, TxWord.bits, Bool.and_eq_true, beq_iff_eq, true_and]
  apply BitVec.eq_of_getLsbD_eq
  intro i hi
  rcases eq_or_ne i 15 with rfl | h
  · have hs : (smpWord s m).getLsbD 15 = s.getLsbD 0 := smpSign_smpWord s m
    rw [BitVec.getLsbD_and, BitVec.getLsbD_setWidth, hs]
    clear hs hi
    revert s; decide
  · have h8 : (0x8000 : BitVec 41) = BitVec.twoPow 41 15 := by decide
    have : (0x8000 : BitVec 41).getLsbD i = false := by
      rw [h8, BitVec.getLsbD_twoPow]; simp [Ne.symm h]
    rw [BitVec.getLsbD_and, this, Bool.and_false]
    split
    · simp
    · rw [this]

theorem smpHi (m : BitVec 15) : Statement (.smpHi m) :=
  ⟨⟨.smpHi, .smp, 0x0000, 0x8000⟩, by decide, rfl, accepts_smp .smpHi 0 m⟩

theorem smpLo (m : BitVec 15) : Statement (.smpLo m) :=
  ⟨⟨.smpLo, .smp, 0x8000, 0x8000⟩, by decide, rfl, accepts_smp .smpLo 1 m⟩

theorem rdCtrl (d : RegWord) : Statement (.rdCtrl d) :=
  ⟨⟨.rdCtrl, .bus, busWord 0 0x00 0, 0x1FF00000000⟩, by decide, rfl, accepts_named .rdCtrl 0 0x00 d⟩

theorem wrCtrl (d : RegWord) : Statement (.wrCtrl d) :=
  ⟨⟨.wrCtrl, .bus, busWord 1 0x00 0, 0x1FF00000000⟩, by decide, rfl, accepts_named .wrCtrl 1 0x00 d⟩

theorem rdStatus (d : RegWord) : Statement (.rdStatus d) :=
  ⟨⟨.rdStatus, .bus, busWord 0 0x04 0, 0x1FF00000000⟩, by decide, rfl, accepts_named .rdStatus 0 0x04 d⟩

theorem wrStatus (d : RegWord) : Statement (.wrStatus d) :=
  ⟨⟨.wrStatus, .bus, busWord 1 0x04 0, 0x1FF00000000⟩, by decide, rfl, accepts_named .wrStatus 1 0x04 d⟩

theorem rdSyncMin (d : RegWord) : Statement (.rdSyncMin d) :=
  ⟨⟨.rdSyncMin, .bus, busWord 0 0x08 0, 0x1FF00000000⟩, by decide, rfl, accepts_named .rdSyncMin 0 0x08 d⟩

theorem wrSyncMin (d : RegWord) : Statement (.wrSyncMin d) :=
  ⟨⟨.wrSyncMin, .bus, busWord 1 0x08 0, 0x1FF00000000⟩, by decide, rfl, accepts_named .wrSyncMin 1 0x08 d⟩

theorem rdBitThresh (d : RegWord) : Statement (.rdBitThresh d) :=
  ⟨⟨.rdBitThresh, .bus, busWord 0 0x0C 0, 0x1FF00000000⟩, by decide, rfl, accepts_named .rdBitThresh 0 0x0C d⟩

theorem wrBitThresh (d : RegWord) : Statement (.wrBitThresh d) :=
  ⟨⟨.wrBitThresh, .bus, busWord 1 0x0C 0, 0x1FF00000000⟩, by decide, rfl, accepts_named .wrBitThresh 1 0x0C d⟩

theorem rdPktLen (d : RegWord) : Statement (.rdPktLen d) :=
  ⟨⟨.rdPktLen, .bus, busWord 0 0x10 0, 0x1FF00000000⟩, by decide, rfl, accepts_named .rdPktLen 0 0x10 d⟩

theorem wrPktLen (d : RegWord) : Statement (.wrPktLen d) :=
  ⟨⟨.wrPktLen, .bus, busWord 1 0x10 0, 0x1FF00000000⟩, by decide, rfl, accepts_named .wrPktLen 1 0x10 d⟩

theorem rdChkOffset (d : RegWord) : Statement (.rdChkOffset d) :=
  ⟨⟨.rdChkOffset, .bus, busWord 0 0x14 0, 0x1FF00000000⟩, by decide, rfl, accepts_named .rdChkOffset 0 0x14 d⟩

theorem wrChkOffset (d : RegWord) : Statement (.wrChkOffset d) :=
  ⟨⟨.wrChkOffset, .bus, busWord 1 0x14 0, 0x1FF00000000⟩, by decide, rfl, accepts_named .wrChkOffset 1 0x14 d⟩

theorem rdAddrFilter (d : RegWord) : Statement (.rdAddrFilter d) :=
  ⟨⟨.rdAddrFilter, .bus, busWord 0 0x18 0, 0x1FF00000000⟩, by decide, rfl, accepts_named .rdAddrFilter 0 0x18 d⟩

theorem wrAddrFilter (d : RegWord) : Statement (.wrAddrFilter d) :=
  ⟨⟨.wrAddrFilter, .bus, busWord 1 0x18 0, 0x1FF00000000⟩, by decide, rfl, accepts_named .wrAddrFilter 1 0x18 d⟩

theorem rdPktTotal (d : RegWord) : Statement (.rdPktTotal d) :=
  ⟨⟨.rdPktTotal, .bus, busWord 0 0x1C 0, 0x1FF00000000⟩, by decide, rfl, accepts_named .rdPktTotal 0 0x1C d⟩

theorem rdPktChkOk (d : RegWord) : Statement (.rdPktChkOk d) :=
  ⟨⟨.rdPktChkOk, .bus, busWord 0 0x20 0, 0x1FF00000000⟩, by decide, rfl, accepts_named .rdPktChkOk 0 0x20 d⟩

theorem rdPktAddrOk (d : RegWord) : Statement (.rdPktAddrOk d) :=
  ⟨⟨.rdPktAddrOk, .bus, busWord 0 0x24 0, 0x1FF00000000⟩, by decide, rfl, accepts_named .rdPktAddrOk 0 0x24 d⟩

theorem wrRxPop (d : RegWord) : Statement (.wrRxPop d) :=
  ⟨⟨.wrRxPop, .bus, busWord 1 0x28 0, 0x1FF00000000⟩, by decide, rfl, accepts_named .wrRxPop 1 0x28 d⟩

theorem rdRxLen (d : RegWord) : Statement (.rdRxLen d) :=
  ⟨⟨.rdRxLen, .bus, busWord 0 0x2C 0, 0x1FF00000000⟩, by decide, rfl, accepts_named .rdRxLen 0 0x2C d⟩

theorem rdDbg (d : RegWord) : Statement (.rdDbg d) :=
  ⟨⟨.rdDbg, .bus, busWord 0 0x30 0, 0x1FF00000000⟩, by decide, rfl, accepts_named .rdDbg 0 0x30 d⟩

theorem rdRunLen (d : RegWord) : Statement (.rdRunLen d) :=
  ⟨⟨.rdRunLen, .bus, busWord 0 0x34 0, 0x1FF00000000⟩, by decide, rfl, accepts_named .rdRunLen 0 0x34 d⟩

theorem rdRxByte (i : BitVec 4) (d : RegWord) : Statement (.rdRxByte i d) := by
  refine ⟨⟨.rdRxByte, .bus, busWord 0 0x40 0, 0x1C300000000⟩, by decide, rfl, ?_⟩
  simp only [OpRow.accepts, encode, TxWord.format, TxWord.bits, Bool.and_eq_true, beq_iff_eq, true_and]
  exact (mask_rxByte 0 0 _ _ d).2 ⟨rfl, by revert i; decide⟩

theorem rdZero (a : BusAddr) (d : RegWord) : Statement (.rdZero a d) :=
  ⟨⟨.rdZero, .bus, busWord 0 0 0, 0x10000000000⟩, by decide, rfl, accepts_catchAll .rdZero 0 a d⟩

theorem wrIgnored (a : BusAddr) (d : RegWord) : Statement (.wrIgnored a d) :=
  ⟨⟨.wrIgnored, .bus, busWord 1 0 0, 0x10000000000⟩, by decide, rfl, accepts_catchAll .wrIgnored 1 a d⟩

theorem rst : Statement .rst := ⟨⟨.rst, .pin, 0x1, 0x1⟩, by decide, rfl, by decide⟩

end Sys2Proof.Laws.RowMatch
end

