-- ==== Sys2Proof/Laws/Words.lean ====
section
/-! SUPPORT. The composed register words as numbers: each field at its place (R39, R40, R49). -/

namespace Sys2Proof.Machine

variable {cap : Nat}

theorem bit_toNat (b : Bool) : (bit b).toNat = b.toNat := by cases b <;> rfl

/-- A concatenation as a number: the low part, and the high part shifted by its width. -/
theorem append_toNat {n m : Nat} (x : BitVec n) (y : BitVec m) : (x ++ y).toNat = x.toNat * 2 ^ m + y.toNat := by
  rw [BitVec.toNat_append, Nat.shiftLeft_eq, Nat.mul_comm, ← Nat.two_pow_add_eq_or_of_lt y.isLt]

theorem ctrlWord_toNat (s : State cap) :
    (ctrlWord s).toNat = s.cfg.en.toNat + 2 * s.cfg.afEn.toNat + 4 * s.cfg.ie.toNat := by
  simp only [ctrlWord, append_toNat, bit_toNat]
  simp only [BitVec.ofNat_eq_ofNat, BitVec.toNat_ofNat, Nat.zero_mod]
  omega

theorem statusWord_toNat (s : State cap) :
    (statusWord s).toNat = s.dec.sync.toNat + 2 * s.rx.full.toNat + 4 * s.flags.overrun.toNat + 8 * s.flags.resync.toNat
      + 16 * s.flags.lastResult.code.toNat + 64 * s.edge.prevPol.toNat + 128 * s.edge.primed.toNat := by
  simp only [statusWord, append_toNat, bit_toNat]
  simp only [BitVec.ofNat_eq_ofNat, BitVec.toNat_ofNat, Nat.zero_mod]
  omega

theorem dbgWord_toNat (s : State cap) :
    (dbgWord s).toNat = s.dec.acc.toNat + 2 ^ 8 * s.dec.bitCnt.toNat + 2 ^ 16 * s.dec.byteIdx.toNat
      + 2 ^ 24 * s.dec.firstEdge.toNat := by
  simp only [dbgWord, append_toNat, bit_toNat]
  simp only [BitVec.ofNat_eq_ofNat, BitVec.toNat_ofNat, Nat.zero_mod]
  omega

end Sys2Proof.Machine
end

