-- ==== Sys2Proof/Tests/Slice0.lean ====
section
/-! SUPPORT. The model's own tests: ill-formed terms are refused, every constructor is decoded from a word written out from
R91 to R95, one-step tests with the values of 95_test_vectors.md, and a witness for the hypotheses of every statement that
has some. -/

namespace Sys2Proof.Tests

open Sys2Proof.Machine

/-! ## Well-formedness (R95: the first row that matches wins) -/

theorem test_wf_rdZero_named_refused :
    (Instr.rdZero 0x00 0).wf = false ∧ (Instr.rdZero 0x34 0).wf = false ∧ (Instr.rdZero 0x2C 0).wf = false := by decide
theorem test_wf_rdZero_rxByte_refused :
    (Instr.rdZero 0x40 0).wf = false ∧ (Instr.rdZero 0x7C 0).wf = false := by decide
theorem test_wf_wrIgnored_named_refused :
    (Instr.wrIgnored 0x00 0).wf = false ∧ (Instr.wrIgnored 0x18 0).wf = false ∧ (Instr.wrIgnored 0x28 0).wf = false := by decide
theorem test_wf_rdZero_accepted :
    (Instr.rdZero 0x28 0).wf = true ∧ (Instr.rdZero 0x38 0).wf = true ∧ (Instr.rdZero 0x3C 0).wf = true ∧
      (Instr.rdZero 0x41 0).wf = true ∧ (Instr.rdZero 0x80 0).wf = true ∧ (Instr.rdZero 0xFF 0).wf = true := by decide
theorem test_wf_wrIgnored_accepted :
    (Instr.wrIgnored 0x1C 0).wf = true ∧ (Instr.wrIgnored 0x40 0).wf = true ∧ (Instr.wrIgnored 0x01 0).wf = true := by decide

/-! ## Decoding and encoding: the words of R91 to R95 and of the table at the head of 95_test_vectors.md -/

theorem test_decode_smpHi :
    decodeSmp 0b0_000000000000001 = .smpHi 1 ∧ encode (.smpHi 1) = .smp 0b0_000000000000001 := by decide
theorem test_decode_smpLo :
    decodeSmp 0b1_111111111111111 = .smpLo 0x7FFF ∧ encode (.smpLo 0x7FFF) = .smp 0b1_111111111111111 := by decide
theorem test_decode_rdCtrl : decodeBus 0x00000000000 = .rdCtrl 0 ∧ encode (.rdCtrl 0) = .bus 0x00000000000 := by decide
theorem test_decode_wrCtrl : decodeBus 0x10000000007 = .wrCtrl 7 ∧ encode (.wrCtrl 7) = .bus 0x10000000007 := by decide
theorem test_decode_rdStatus : decodeBus 0x00400000000 = .rdStatus 0 ∧ encode (.rdStatus 0) = .bus 0x00400000000 := by decide
theorem test_decode_wrStatus :
    decodeBus 0x1040000000C = .wrStatus 0xC ∧ encode (.wrStatus 0xC) = .bus 0x1040000000C := by decide
theorem test_decode_rdSyncMin :
    decodeBus 0x00800000000 = .rdSyncMin 0 ∧ encode (.rdSyncMin 0) = .bus 0x00800000000 := by decide
theorem test_decode_wrSyncMin :
    decodeBus 0x10800000003 = .wrSyncMin 3 ∧ encode (.wrSyncMin 3) = .bus 0x10800000003 := by decide
theorem test_decode_rdBitThresh :
    decodeBus 0x00C00000000 = .rdBitThresh 0 ∧ encode (.rdBitThresh 0) = .bus 0x00C00000000 := by decide
theorem test_decode_wrBitThresh :
    decodeBus 0x10C00000014 = .wrBitThresh 20 ∧ encode (.wrBitThresh 20) = .bus 0x10C00000014 := by decide
theorem test_decode_rdPktLen : decodeBus 0x01000000000 = .rdPktLen 0 ∧ encode (.rdPktLen 0) = .bus 0x01000000000 := by decide
theorem test_decode_wrPktLen : decodeBus 0x11000000009 = .wrPktLen 9 ∧ encode (.wrPktLen 9) = .bus 0x11000000009 := by decide
theorem test_decode_rdChkOffset :
    decodeBus 0x01400000000 = .rdChkOffset 0 ∧ encode (.rdChkOffset 0) = .bus 0x01400000000 := by decide
theorem test_decode_wrChkOffset :
    decodeBus 0x11400000001 = .wrChkOffset 1 ∧ encode (.wrChkOffset 1) = .bus 0x11400000001 := by decide
theorem test_decode_rdAddrFilter :
    decodeBus 0x01800000000 = .rdAddrFilter 0 ∧ encode (.rdAddrFilter 0) = .bus 0x01800000000 := by decide
theorem test_decode_wrAddrFilter :
    decodeBus 0x11800ABCDEF = .wrAddrFilter 0xABCDEF ∧ encode (.wrAddrFilter 0xABCDEF) = .bus 0x11800ABCDEF := by decide
theorem test_decode_rdPktTotal :
    decodeBus 0x01C00000000 = .rdPktTotal 0 ∧ encode (.rdPktTotal 0) = .bus 0x01C00000000 := by decide
theorem test_decode_rdPktChkOk :
    decodeBus 0x02000000000 = .rdPktChkOk 0 ∧ encode (.rdPktChkOk 0) = .bus 0x02000000000 := by decide
theorem test_decode_rdPktAddrOk :
    decodeBus 0x02400000000 = .rdPktAddrOk 0 ∧ encode (.rdPktAddrOk 0) = .bus 0x02400000000 := by decide
theorem test_decode_wrRxPop : decodeBus 0x12800000000 = .wrRxPop 0 ∧ encode (.wrRxPop 0) = .bus 0x12800000000 := by decide
theorem test_decode_rdRxLen : decodeBus 0x02C00000000 = .rdRxLen 0 ∧ encode (.rdRxLen 0) = .bus 0x02C00000000 := by decide
theorem test_decode_rdDbg : decodeBus 0x03000000000 = .rdDbg 0 ∧ encode (.rdDbg 0) = .bus 0x03000000000 := by decide
theorem test_decode_rdRunLen :
    decodeBus 0x034DEADBEEF = .rdRunLen 0xDEADBEEF ∧ encode (.rdRunLen 0xDEADBEEF) = .bus 0x034DEADBEEF := by decide
theorem test_decode_rdRxByte :
    decodeBus 0x04000000000 = .rdRxByte 0 0 ∧ decodeBus 0x05C00000000 = .rdRxByte 7 0 ∧
      decodeBus 0x07C00000000 = .rdRxByte 15 0 ∧ encode (.rdRxByte 7 0) = .bus 0x05C00000000 := by decide
theorem test_decode_rdZero :
    decodeBus 0x02800000000 = .rdZero 0x28 0 ∧ decodeBus 0x00100000000 = .rdZero 0x01 0 ∧
      decodeBus 0x08000000000 = .rdZero 0x80 0 ∧ encode (.rdZero 0x28 0) = .bus 0x02800000000 := by decide
theorem test_decode_wrIgnored :
    decodeBus 0x11C00000005 = .wrIgnored 0x1C 5 ∧ decodeBus 0x14000000000 = .wrIgnored 0x40 0 ∧
      encode (.wrIgnored 0x1C 5) = .bus 0x11C00000005 := by decide
theorem test_decode_rst : decode (.pin 1) = .ok .rst ∧ encode .rst = .pin 1 := ⟨rfl, rfl⟩

/-- R93: the PIN value 0 is no transaction. -/
theorem test_decode_pin_zero : decode (.pin 0) = .error .noTransaction := rfl
/-- R72: low byte first. -/
theorem test_decodeBytes_sample : decodeBytes .smp [0x34, 0x92] = .ok (.smpLo 0x1234) := rfl
theorem test_decodeBytes_bus : decodeBytes .bus [0x0C, 0, 0, 0, 0x04, 0x01] = .ok (.wrStatus 0xC) := rfl
theorem test_decodeBytes_wrongLength :
    decodeBytes .smp [0x34] = .error .wrongLength ∧ decodeBytes .bus [0, 0, 0] = .error .wrongLength ∧
      decodeBytes .pin [] = .error .wrongLength := ⟨rfl, rfl, rfl⟩
theorem test_decodeBytes_bitsAboveFormat :
    decodeBytes .bus [0, 0, 0, 0, 0, 0x02] = .error .bitsAboveFormat ∧
      decodeBytes .pin [0x03] = .error .bitsAboveFormat := ⟨rfl, rfl⟩
theorem test_decodeTableWord :
    decodeTableWord 16 0x8000 = some (.smpLo 0) ∧ decodeTableWord 48 0x1040000000C = some (.wrStatus 0xC) ∧
      decodeTableWord 8 1 = some .rst ∧ decodeTableWord 8 0 = none := by decide

/-! ## States -/

/-- The state of an outcome. -/
def next? {cap : Nat} : Host.Outcome (State cap) Fault Refusal → Option (State cap)
  | .next t => some t
  | .fault _ => none
  | .refused _ => none

/-- A buffer that starts with four bytes. -/
def four (a b c d : Byte) : Buffer := (((Buffer.zero.put 0 a).put 1 b).put 2 c).put 3 d

/-- Enabled after reset with SYNC_MIN 3, BIT_THRESH 2, PKT_LEN 4: the set-up of V25. -/
def on : State :=
  { State.reset with cfg := { State.reset.cfg with en := true, syncMin := 3, bitThresh := 2, pktLen := 4 } }

/-- `on` after a high run of `run` samples. -/
def high (run : BitVec 16) : State := { on with edge := { primed := true, prevPol := true, runLen := run } }

/-- In a packet, after `k` bits and a high pulse of `run` samples. -/
def inBits (run : BitVec 16) (k : BitVec 4) (acc : Byte) (j : BitVec 5) (b : Buffer) : State :=
  { high run with dec := { sync := true, firstEdge := false, bitCnt := k, acc := acc, byteIdx := j }, buf := b }

/-- One bit before A5 01 02 A8 is complete: the last pulse is short, so the last bit is 0 (0xA8 is twice 0x54). -/
def lastBit : State := inBits 1 7 0x54 3 (four 0xA5 0x01 0x02 0x00)

/-- `lastBit` with a packet in the latch. -/
def lastBitFull : State := { lastBit with rx := { bytes := four 1 2 3 6, len := 4, full := true } }

/-- `lastBit` with the address filter on. -/
def lastBitFiltered (f : BitVec 24) : State := { lastBit with cfg := { lastBit.cfg with afEn := true, addrFilter := f } }

/-- One bit before sixteen bytes of 0x00 are complete. -/
def lastBitOf16 : State :=
  let s := inBits 1 7 0x00 15 Buffer.zero
  { s with cfg := { s.cfg with pktLen := 16 } }

/-! ## One step of each instruction, the values of 95_test_vectors.md -/

/-- V1: sample 1 is 0x0000, high, no event. -/
theorem test_smpHi_primes :
    (next? (execSmpHi 0 on)).map (·.edge) = some { primed := true, prevPol := true, runLen := 1 } := by decide
/-- V10: at the third high sample sync is acquired. -/
theorem test_smpHi_sync :
    (next? (execSmpHi 1 (high 2))).map (fun t => (t.edge.runLen, t.dec.sync, t.dec.firstEdge)) = some (3, true, true) := by
  decide
/-- V25: the fourth bit 1 takes DBG from 0x00000305 to 0x0000040B. -/
theorem test_smpLo_bit :
    ((next? (execSmpLo 0 (inBits 2 3 0x05 0 Buffer.zero))).map dbgWord) = some 0x0000040B := by decide
/-- V43: A5 01 02 A8 with the filter off is accepted, STATUS = 0x92. -/
theorem test_smpLo_packet : ((next? (execSmpLo 0 lastBit)).map statusWord) = some 0x92 := by decide
theorem test_rdCtrl : (next? (execRdCtrl 0 on)).map (·.busRdata) = some (some 1) := by decide
/-- V50: CNT_CLR reads 0 and the reserved bits are discarded; then AF_EN is locked. -/
theorem test_wrCtrl : (next? (execWrCtrl 0xFFFFFFFF State.reset)).map ctrlWord = some 7 := by decide
/-- V28: disabling clears the decoder. -/
theorem test_wrCtrl_disable :
    (next? (execWrCtrl 0 (inBits 2 1 1 0 Buffer.zero))).map (fun t => (statusWord t, dbgWord t)) = some (0, 0x01000000) := by
  decide
theorem test_rdStatus : (next? (execRdStatus 0 (high 1))).map (·.busRdata) = some (some 0xC0) := by decide
/-- R213: OVERRUN alone is cleared. -/
theorem test_wrStatus :
    (next? (execWrStatus 4 { on with flags := { overrun := true, resync := true, lastResult := .accepted } })).map statusWord
      = some 0x18 := by decide
theorem test_rdSyncMin : (next? (execRdSyncMin 0 State.reset)).map (·.busRdata) = some (some 0x28) := by decide
/-- V55 and V54. -/
theorem test_wrSyncMin :
    (next? (execWrSyncMin 0x00010003 State.reset)).map (·.cfg.syncMin) = some 3 ∧
      (next? (execWrSyncMin 5 on)).map (·.cfg.syncMin) = some 3 := by decide
theorem test_rdBitThresh : (next? (execRdBitThresh 0 State.reset)).map (·.busRdata) = some (some 0x14) := by decide
theorem test_wrBitThresh : (next? (execWrBitThresh 0x10002 State.reset)).map (·.cfg.bitThresh) = some 2 := by decide
theorem test_rdPktLen : (next? (execRdPktLen 0 State.reset)).map (·.busRdata) = some (some 8) := by decide
/-- V53. -/
theorem test_wrPktLen :
    [0x3, 0x4, 0x10, 0x11, 0x24, 0x31, 0xFFFFFFF0].map (fun d => (next? (execWrPktLen d State.reset)).map (·.cfg.pktLen))
      = [some 8, some 4, some 16, some 8, some 4, some 8, some 16] := by decide
theorem test_rdChkOffset : (next? (execRdChkOffset 0 State.reset)).map (·.busRdata) = some (some 0) := by decide
/-- V55. -/
theorem test_wrChkOffset : (next? (execWrChkOffset 0x101 State.reset)).map (·.cfg.chkOffset) = some 0x01 := by decide
theorem test_rdAddrFilter :
    (next? (execRdAddrFilter 0 (lastBitFiltered 0x123456))).map (·.busRdata) = some (some 0x123456) := by decide
/-- V55. -/
theorem test_wrAddrFilter :
    (next? (execWrAddrFilter 0xFF123456 State.reset)).map (·.cfg.addrFilter) = some 0x123456 := by decide
theorem test_rdPktTotal :
    (next? (execRdPktTotal 0 { on with cnt := { pktTotal := 3, pktChkOk := 2, pktAddrOk := 1 } })).map (·.busRdata)
      = some (some 3) := by decide
theorem test_rdPktChkOk :
    (next? (execRdPktChkOk 0 { on with cnt := { pktTotal := 3, pktChkOk := 2, pktAddrOk := 1 } })).map (·.busRdata)
      = some (some 2) := by decide
theorem test_rdPktAddrOk :
    (next? (execRdPktAddrOk 0 { on with cnt := { pktTotal := 3, pktChkOk := 2, pktAddrOk := 1 } })).map (·.busRdata)
      = some (some 1) := by decide
/-- R216: the bytes stay readable. -/
theorem test_wrRxPop :
    (next? (execWrRxPop 0 lastBitFull)).map (fun t => (t.rx.full, t.rx.len, t.rx.bytes.byte 3)) = some (false, 4, 6) := by
  decide
theorem test_rdRxLen : (next? (execRdRxLen 0 lastBitFull)).map (·.busRdata) = some (some 4) := by decide
/-- V25: DBG after the second bit. -/
theorem test_rdDbg :
    (next? (execRdDbg 0 (inBits 1 2 0x02 0 Buffer.zero))).map (·.busRdata) = some (some 0x00000202) := by decide
theorem test_rdRunLen : (next? (execRdRunLen 0 (high 0xFFFF))).map (·.busRdata) = some (some 0x0000FFFF) := by decide
theorem test_rdRxByte :
    (next? (execRdRxByte 3 0 lastBitFull)).map (·.busRdata) = some (some 6) ∧
      (next? (execRdRxByte 15 0 lastBitFull)).map (·.busRdata) = some (some 0) := by decide
/-- V56. -/
theorem test_rdZero : (next? (execRdZero 0x38 0 lastBitFull)).map (·.busRdata) = some (some 0) := by decide
/-- V56: `WR PKT_TOTAL, 5` leaves the counter. -/
theorem test_wrIgnored : (next? (execWrIgnored 0x1C 5 on)).map (·.cnt.pktTotal) = some 0 := by decide
/-- V71. -/
theorem test_rst :
    (next? (execRst lastBitFull)).map (fun t => (statusWord t, dbgWord t, t.cfg.pktLen, t.rx.len)) = some (0, 0x01000000, 8, 0) := by
  decide

/-- V47: in a cycle with both, the pop acts before the sample that completes the packet. -/
theorem test_step_pop_first :
    (next? (step { lastBitFull with inputs := [{ rst := 0, bus := some 0x12800000000, smp := some 0xFFFF }] })).map
      (fun t => (statusWord t, t.rx.bytes.byte 0)) = some (0x92, 0xA5) := by decide
/-- V46: without a pop the older packet stays and OVERRUN is set. -/
theorem test_step_overrun :
    (next? (step { lastBitFull with inputs := [cycleOf (.smp 0xFFFF)] })).map
      (fun t => (statusWord t, t.rx.bytes.byte 0)) = some (0x96, 1) := by decide
/-- R408: nothing presented, nothing changed. -/
theorem test_step_idle : step State.reset = .next State.reset := rfl
theorem test_withFetchWord :
    (next? (step (State.reset.withFetchWord 48 0x00800000000))).map (·.busRdata) = some (some 0x28) ∧
      (next? (step (State.reset.withFetchWord 48 0x10000000001))).map (·.cfg.en) = some true ∧
      (next? (step (on.withFetchWord 16 0x8000))).map (·.edge) = some lowRunStarted ∧
      (next? (step (on.withFetchWord 8 1))).map (·.cfg.en) = some false := by decide

/-! ## Witnesses: for each statement with hypotheses, values that meet them, each clause at a boundary of its range -/

theorem witness_DecodeEncodeRoundTrip :
    (Instr.rdZero 0x28 0xFFFFFFFF).wf = true ∧ (Instr.rdZero 0xFF 0).wf = true ∧ (Instr.wrIgnored 0x1C 0).wf = true ∧
      (Instr.rdRxByte 15 0).wf = true ∧ Instr.rst.wf = true := by decide
theorem witness_EveryWordIsATransaction :
    decode (.smp 0x8000) = .ok (.smpLo 0) ∧ decode (.bus 0x1FFFFFFFFFF) = .ok (.wrIgnored 0xFF 0xFFFFFFFF) ∧
      decode (.pin 1) = .ok .rst := ⟨rfl, rfl, rfl⟩
/-- The addresses where the clauses of the opcode map meet. -/
theorem witness_DecoderFollowsOpcodeMap :
    (decodeBus (busWord 0 0x3C 0)).opcode = .rdZero ∧ (decodeBus (busWord 0 0x40 0)).opcode = .rdRxByte ∧
      (decodeBus (busWord 0 0x7C 0)).opcode = .rdRxByte ∧ (decodeBus (busWord 0 0x7D 0)).opcode = .rdZero ∧
      (decodeBus (busWord 0 0x80 0)).opcode = .rdZero ∧ (decodeBus (busWord 1 0x18 0)).opcode = .wrAddrFilter ∧
      (decodeBus (busWord 1 0x1C 0)).opcode = .wrIgnored ∧ (decodeBus (busWord 1 0x28 0)).opcode = .wrRxPop := by decide
/-- Three bytes make one sample, the last byte none. -/
theorem witness_SampleStreamIsLittleEndian :
    0 < [0x34, 0x92, 0x56].length / 2 ∧ cyclesOfBytes [0x34, 0x92, 0x56] = [cycleOf (.smp 0x9234)] := by decide
theorem witness_StepRunsTheDecodedInstruction :
    decode (.smp 0x8000) = .ok (.smpLo 0) ∧ decode (.bus 0) = .ok (.rdCtrl 0) ∧ decode (.pin 1) = .ok .rst :=
  ⟨rfl, rfl, rfl⟩
theorem witness_CycleOrder :
    (⟨1, some 0, some 0⟩ : Cycle).rst = 1 ∧
      ((⟨0, none, none⟩ : Cycle).rst = 0 ∧ (⟨0, none, none⟩ : Cycle).bus = none ∧ (⟨0, none, none⟩ : Cycle).smp = none) ∧
      ((⟨0, some 5, none⟩ : Cycle).bus = some 5 ∧ (⟨0, some 5, none⟩ : Cycle).smp = none) ∧
      ((⟨0, none, some 7⟩ : Cycle).bus = none ∧ (⟨0, none, some 7⟩ : Cycle).smp = some 7) ∧
      ((⟨0, some 5, some 7⟩ : Cycle).bus = some 5 ∧ (⟨0, some 5, some 7⟩ : Cycle).smp = some 7) := by decide
theorem witness_DisabledSampleIsLost : State.reset.cfg.en = false := by decide
theorem witness_OnlyTheSignBitMatters :
    (0x0000 : SampleWord).getLsbD 15 = (0x7FFF : SampleWord).getLsbD 15 ∧
      (0x8000 : SampleWord).getLsbD 15 = (0xFFFF : SampleWord).getLsbD 15 := by decide
/-- Disabled; a first sample; the run one short of SYNC_MIN, at SYNC_MIN, and saturated. -/
theorem witness_HighSampleStep :
    (0x7FFF : SampleWord) &&& 0x8000 = 0x0000 ∧ State.reset.cfg.en = false ∧ on.cfg.en = true ∧
      (min ((high 1).edge.runLen.toNat + 1) 0xFFFF < (high 1).cfg.syncMin.toNat) ∧
      ((high 2).cfg.syncMin.toNat ≤ min ((high 2).edge.runLen.toNat + 1) 0xFFFF) ∧
      ((high 0xFFFF).cfg.syncMin.toNat ≤ min ((high 0xFFFF).edge.runLen.toNat + 1) 0xFFFF) := by decide
theorem witness_LowSampleWithoutEffectOnDecoder :
    (on.cfg.en = true ∧ on.edge.primed = false) ∧
      ((high 2).cfg.en = true ∧ (high 2).edge.primed = true ∧ (high 2).edge.prevPol = true ∧ (high 2).dec.sync = false) ∧
      (let s : State := { on with edge := lowRunStarted }
       s.cfg.en = true ∧ s.edge.primed = true ∧ s.edge.prevPol = false) := by decide
theorem witness_FirstFallingEdgeDiscarded :
    let s : State := { high 3 with dec := { sync := true, firstEdge := true, bitCnt := 0, acc := 0, byteIdx := 0 } }
    AfterHigh s ∧ s.dec.sync = true ∧ s.dec.firstEdge = true := by decide
/-- The first and the seventh bit of a byte. -/
theorem witness_DataBitShiftedIn :
    (DataEdge (inBits 1 0 0 0 Buffer.zero) ∧ (inBits 1 0 0 0 Buffer.zero).dec.bitCnt.toNat < 7) ∧
      (DataEdge (inBits 2 6 0x2A 0 Buffer.zero) ∧ (inBits 2 6 0x2A 0 Buffer.zero).dec.bitCnt.toNat < 7) := by decide
/-- The first byte, and the last but one. -/
theorem witness_EighthBitCommitsByte :
    (ByteEdge (inBits 1 7 0x52 0 Buffer.zero) ∧
        (inBits 1 7 0x52 0 Buffer.zero).dec.byteIdx.toNat + 1 ≠ (inBits 1 7 0x52 0 Buffer.zero).cfg.pktLen.toNat) ∧
      (ByteEdge (inBits 1 7 0x52 2 Buffer.zero) ∧
        (inBits 1 7 0x52 2 Buffer.zero).dec.byteIdx.toNat + 1 ≠ (inBits 1 7 0x52 2 Buffer.zero).cfg.pktLen.toNat) := by
  decide
/-- The shortest and the longest packet. -/
theorem witness_PacketCompletionVerdict : PacketEdge lastBit ∧ PacketEdge lastBitOf16 := by decide
/-- Accepted into an empty latch, accepted over a full one, and both ways of not being accepted. -/
theorem witness_AcceptedPacketLatched :
    (PacketEdge lastBit ∧ packetIsOurs lastBit = true ∧ lastBit.rx.full = false) ∧
      (PacketEdge lastBitOf16 ∧ packetIsOurs lastBitOf16 = true ∧ lastBitOf16.rx.full = false) ∧
      (PacketEdge lastBitFull ∧ packetIsOurs lastBitFull = true ∧ lastBitFull.rx.full = true) ∧
      (PacketEdge (lastBitFiltered 0xA50102) ∧ packetIsOurs (lastBitFiltered 0xA50102) = true) ∧
      (PacketEdge (lastBitFiltered 0xA50103) ∧ packetChecks (lastBitFiltered 0xA50103) = true ∧
        packetIsOurs (lastBitFiltered 0xA50103) = false) ∧
      (let s := inBits 2 7 0x54 3 (four 0xA5 0x01 0x02 0x00)
       PacketEdge s ∧ packetChecks s = false ∧ packetIsOurs s = false) := by decide
theorem witness_CompletedPacketFramed : PacketEdge lastBitFull ∧ PacketEdge (lastBitFiltered 0) := by decide
/-- A cycle with a frame, with a bus transaction before its sample and without, and a cycle with no frame. -/
theorem witness_FramePortDrivenForOneCycle :
    (∃ t, step { lastBit with inputs := [cycleOf (.smp 0xFFFF)] } = .next t ∧ t.frm.valid = true) ∧
      (∃ t, step { lastBit with inputs := [{ rst := 0, bus := some 0x10000000009, smp := some 0xFFFF }] } = .next t ∧
        t.frm.valid = true ∧ t.cnt.pktTotal = 1) ∧
      ∃ t, step lastBit = .next t ∧ t.frm.valid = false := ⟨⟨_, rfl, rfl⟩, ⟨_, rfl, rfl, rfl⟩, _, rfl, rfl⟩
theorem witness_RunLengthCountsAndSaturates :
    (on.cfg.en = true ∧ on.edge.primed = false) ∧
      (let s : State := { on with edge := lowRunStarted }
       s.cfg.en = true ∧ (s.edge.primed = true → s.edge.prevPol = false)) := by decide
theorem witness_SyncPulseLengthDoesNotMatter :
    ∃ t, (high 2).cfg.en = true ∧ exec (.smpHi 0) (high 2) = .next t ∧ t.cfg.syncMin.toNat ≤ t.edge.runLen.toNat :=
  ⟨_, rfl, rfl, by decide⟩
/-- SYNC_MIN 0 and 1, without sync and with it. -/
theorem witness_NoBitWithTinySyncMin :
    let s (v : BitVec 16) : State := { State.reset with cfg := { State.reset.cfg with en := true, syncMin := v } }
    ((s 0).cfg.en = true ∧ NoBitDue (s 0)) ∧ ((s 1).cfg.en = true ∧ NoBitDue (s 1)) ∧
      (∃ t, exec (.smpHi 0) (s 1) = .next t ∧ t.dec.sync = true ∧ NoBitDue t) ∧ Instr.smpLo 0 ≠ .rst :=
  ⟨by decide, by decide, ⟨_, rfl, rfl, by decide⟩, by decide⟩
theorem witness_RegistersReadAfterReset : ∃ t, exec .rst lastBitFull = .next t := ⟨_, rfl⟩
theorem witness_ConfigurationReads :
    (0x008FFFFFFFF : BusWord) &&& 0x1FF00000000 = 0x00800000000 ∧
      (0x00CFFFFFFFF : BusWord) &&& 0x1FF00000000 = 0x00C00000000 ∧
      (0x010FFFFFFFF : BusWord) &&& 0x1FF00000000 = 0x01000000000 ∧
      (0x014FFFFFFFF : BusWord) &&& 0x1FF00000000 = 0x01400000000 ∧
      (0x018FFFFFFFF : BusWord) &&& 0x1FF00000000 = 0x01800000000 := by decide
theorem witness_CounterReads :
    (0x01C00000000 : BusWord) &&& 0x1FF00000000 = 0x01C00000000 ∧
      (0x020FFFFFFFF : BusWord) &&& 0x1FF00000000 = 0x02000000000 ∧
      (0x02400000000 : BusWord) &&& 0x1FF00000000 = 0x02400000000 := by decide
theorem witness_LatchAndRunLengthReads :
    (0x02C00000000 : BusWord) &&& 0x1FF00000000 = 0x02C00000000 ∧
      (0x03400000000 : BusWord) &&& 0x1FF00000000 = 0x03400000000 ∧
      (0x04000000000 : BusWord) &&& 0x1C300000000 = 0x04000000000 ∧
      (0x07C00000000 : BusWord) &&& 0x1C300000000 = 0x04000000000 ∧
      (firstRow (.bus 0x02800000000)).map OpRow.opcode = some .rdZero ∧
      (firstRow (.bus 0x0FF00000000)).map OpRow.opcode = some .rdZero := by decide
theorem witness_ComposedReads :
    (0x00000000001 : BusWord) &&& 0x1FF00000000 = 0x00000000000 ∧
      (0x00400000000 : BusWord) &&& 0x1FF00000000 = 0x00400000000 ∧
      (0x03000000000 : BusWord) &&& 0x1FF00000000 = 0x03000000000 := by decide
theorem witness_ReadsChangeNoState :
    (0x00000000000 : BusWord).getLsbD 40 = false ∧ (0x0FFFFFFFFFF : BusWord).getLsbD 40 = false := by decide
/-- Enabling, disabling an enabled decoder, and clearing the counters. -/
theorem witness_ControlWrite :
    (0x10000000007 : BusWord) &&& 0x1FF00000000 = 0x10000000000 ∧
      ((0x10000000000 : BusWord) &&& 0x1FF00000000 = 0x10000000000 ∧ on.cfg.en = true ∧
        (0x10000000000 : BusWord).getLsbD 0 = false) ∧ (0x10000000009 : BusWord).getLsbD 3 = true := by decide
theorem witness_StatusWrite : (0x1040000000C : BusWord) &&& 0x1FF00000000 = 0x10400000000 := by decide
/-- Locked and unlocked; for PKT_LEN the values at and outside both ends of the legal range (V53). -/
theorem witness_ConfigurationWrites :
    (0x10800000003 : BusWord) &&& 0x1FF00000000 = 0x10800000000 ∧
      (0x10C00000002 : BusWord) &&& 0x1FF00000000 = 0x10C00000000 ∧
      (0x11000000004 : BusWord) &&& 0x1FF00000000 = 0x11000000000 ∧
      (0x11400000001 : BusWord) &&& 0x1FF00000000 = 0x11400000000 ∧
      (0x11800ABCDEF : BusWord) &&& 0x1FF00000000 = 0x11800000000 ∧
      State.reset.cfg.en = false ∧ on.cfg.en = true ∧
      ((0x11000000003 : BusWord).extractLsb' 0 5).toNat < 4 ∧ ((0x11000000004 : BusWord).extractLsb' 0 5).toNat = 4 ∧
      ((0x11000000010 : BusWord).extractLsb' 0 5).toNat = 16 ∧ 16 < ((0x11000000011 : BusWord).extractLsb' 0 5).toNat := by
  decide
theorem witness_PopAndIgnoredWrites :
    (0x12800000001 : BusWord) &&& 0x1FF00000000 = 0x12800000000 ∧
      (firstRow (.bus 0x11C00000005)).map OpRow.opcode = some .wrIgnored ∧
      (firstRow (.bus 0x1FF00000000)).map OpRow.opcode = some .wrIgnored := by decide
theorem witness_ConfigurationLockedWhileEnabled :
    (Instr.wrCtrl 2 ≠ .rst ∧ on.cfg.en = true ∧ ∃ t, exec (.wrCtrl 2) on = .next t) ∧
      (Instr.wrPktLen 9 ≠ .rst ∧ (Instr.wrPktLen 9).opcode ≠ .wrCtrl ∧ ∃ t, exec (.wrPktLen 9) on = .next t) :=
  ⟨⟨by decide, by decide, _, rfl⟩, by decide, by decide, _, rfl⟩
theorem witness_LatchStableWhileFull :
    Instr.smpLo 0 ≠ .rst ∧ lastBitFull.rx.full = true ∧ (Instr.smpLo 0).opcode ≠ .wrRxPop ∧
      ∃ t, exec (.smpLo 0) lastBitFull = .next t := ⟨by decide, by decide, by decide, _, rfl⟩
theorem witness_InterruptLine : (4 : RegWord).getLsbD 2 = true ∧ (3 : RegWord).getLsbD 2 = false := by decide
/-- After reset, in mid packet, and one bit before the shortest and the longest packet are complete. -/
theorem witness_DecoderInvariantKept :
    (DecoderInv State.reset ∧ ∃ t, step State.reset = .next t) ∧ DecoderInv (inBits 2 6 0x2A 2 Buffer.zero) ∧
      DecoderInv lastBit ∧ DecoderInv lastBitOf16 :=
  ⟨⟨by decide, _, rfl⟩, by decide, by decide, by decide⟩
theorem witness_CountersNestedUntilWrap :
    let s : State := { lastBit with
      cnt := { pktTotal := 0xFFFFFFFE, pktChkOk := 0xFFFFFFFE, pktAddrOk := 0xFFFFFFFE }, inputs := [cycleOf (.smp 0xFFFF)] }
    CountersNested s ∧ s.cnt.pktTotal ≠ 0xFFFFFFFF ∧ ∃ t, step s = .next t := ⟨by decide, by decide, _, rfl⟩
theorem witness_LatchPaddingKept :
    LatchPadded lastBitFull ∧ LatchPadded lastBit ∧ (∃ t, step lastBitFull = .next t) :=
  ⟨by decide, by decide, _, rfl⟩
/-- Two buffers that differ in a byte the packet in progress has not written. -/
theorem witness_UnwrittenBufferUnobservable :
    let s := inBits 1 7 0x52 2 (four 0xA5 0x01 0x02 0x00)
    let s' := inBits 1 7 0x52 2 (four 0xA5 0x01 0xFF 0xEE)
    DecoderInv s ∧ SameButUnwritten s s' ∧ s ≠ s' ∧ (∃ t, step s = .next t) ∧ ∃ t, step s' = .next t :=
  ⟨by decide, by decide, by decide, ⟨_, rfl⟩, _, rfl⟩
theorem witness_SingleByteCorruptionDetected :
    (3 < 4 ∧ 0xA9 ≠ (four 0xA5 0x01 0x02 0xA8).byte 3 ∧ chkOk (four 0xA5 0x01 0x02 0xA8) 4 0 = true) ∧
      (15 < 16 ∧ 1 ≠ (Buffer.zero : Buffer).byte 15 ∧ chkOk (Buffer.zero : Buffer) 16 0 = true) := by decide
/-- PKT_LEN at and outside both ends of the legal range, for the capacities 9 and 16. -/
theorem witness_PacketLengthLegalUpToCapacity :
    [0x3, 0x4, 0x9, 0xA].map (fun d => (next? (execAt (.wrPktLen d) (State.resetOf 9))).map (·.cfg.pktLen))
        = [some 8, some 4, some 9, some 8] ∧
      [0x10, 0x11].map (fun d => (next? (execAt (.wrPktLen d) (State.resetOf 16))).map (·.cfg.pktLen)) = [some 16, some 8] := by
  decide
/-- The least capacity and a state one bit before the last byte of its longest packet. -/
theorem witness_BufferWritesInBoundsAtEveryCapacity :
    let s : State 8 :=
      { State.resetOf 8 with
        cfg := { (State.resetOf 8).cfg with en := true }, edge := { primed := true, prevPol := true, runLen := 1 },
        dec := { sync := true, firstEdge := false, bitCnt := 7, acc := 0, byteIdx := 7 }, inputs := [cycleOf (.smp 0xFFFF)] }
    8 ≤ 8 ∧ DecoderInv (State.resetOf 8) ∧ DecoderInv s ∧ ∃ t, stepAt s = .next t ∧ t.frm.len = 8 :=
  ⟨by decide, by decide, by decide, _, rfl, rfl⟩
/-- The narrowest pulses that BIT_THRESH 2 and SYNC_MIN 3 allow, with four and with sixteen bytes. -/
theorem witness_PacketRecovery :
    (on.cfg.en = true ∧ [0xA5#8, 0x01, 0x02, 0xA8].length = on.cfg.pktLen.toNat ∧ 1 < on.cfg.bitThresh.toNat ∧
        on.cfg.bitThresh.toNat ≤ 2 ∧ 2 < on.cfg.syncMin.toNat ∧ on.cfg.syncMin.toNat ≤ 3) ∧
      (0xA8#8 = [0xA5#8, 0x01, 0x02].foldl (· + ·) 0 + on.cfg.chkOffset ∧ on.cfg.afEn = false ∧ on.rx.full = false) ∧
      (let s : State := { on with cfg := { on.cfg with pktLen := 16 } }
       s.cfg.en = true ∧ (List.replicate 16 (0 : Byte)).length = s.cfg.pktLen.toNat) := by decide

end Sys2Proof.Tests
end

section
/-! PROOFS. The machine of every capacity (R6): this hardware is its instance at 16, the lengths WR_PKT_LEN takes, and the
decoder's invariants of R55 kept by every instruction and every cycle. -/

open Sys2Proof Sys2Proof.Machine

namespace Sys2Proof.Machine

variable {cap : Nat}

/-! ## This hardware as an instance (R6) -/

/-- The dispatch that this hardware's cycle runs is the one of every capacity. -/
theorem exec_eq_execAt_fun : exec = execAt := by
  funext i s
  exact exec_eq_execAt i s

theorem step_eq_stepAt (s : State) : step s = stepAt s := by
  rw [step, stepAt, exec_eq_execAt_fun]

theorem core_eq_coreAt : Sys2Proof.core = coreAt Config.CAP := by
  have hstep : step = stepAt := funext step_eq_stepAt
  rw [Sys2Proof.core, coreAt, hstep, State.reset]

/-! ## The write of PKT_LEN (R43, R220) -/

theorem pktLenLegal_iff (v : BitVec 5) : pktLenLegal cap v = true ↔ 4 ≤ v.toNat ∧ v.toNat ≤ cap := by
  simp [pktLenLegal, Config.pktLenMin]

/-- R220 with the lock of R202: the one condition under which WR_PKT_LEN stores its field. -/
theorem execWrPktLen_eq (d : RegWord) (s : State cap) :
    execWrPktLen d s = .next
      (if s.cfg.en = false ∧ pktLenLegal cap (pktLenField d) = true then s.setCfg { s.cfg with pktLen := pktLenField d }
      else s) := by
  rw [execWrPktLen, writeUnlocked_eq]
  cases hen : s.cfg.en with
  | true => simp
  | false =>
    cases hl : pktLenLegal cap (pktLenField d) with
    | true => simp [pktLenWritten, hl]
    | false => simp only [pktLenWritten, hl]; rfl

/-! ## The per-packet part of the invariant (R55 items 3 to 6)

Items 3, 4 and 6 and the index bound of item 5 speak of the decoder state and the packet length alone, so what each stage
leaves of them is said on those two. -/

/-- R55 items 3, 4 and 6, and the bound of item 5, of a decoder state under a packet length. -/
structure PacketStateSound (d : DecoderState) (len : BitVec 5) : Prop where
  unsynced : d.sync = false → d.firstEdge = true ∧ d.bitCnt = 0 ∧ d.acc = 0 ∧ d.byteIdx = 0
  accBits : d.bitCnt.toNat ≤ 7 ∧ d.acc.toNat < 2 ^ d.bitCnt.toNat
  index : d.byteIdx.toNat < len.toNat
  first : d.firstEdge = true → d.bitCnt = 0 ∧ d.byteIdx = 0

/-- The invariants of R55 by what they speak of: the enable bit, the edge detector, the decoder state, the packet length. -/
theorem decoderInv_iff (s : State cap) :
    DecoderInv s ↔ DisabledIsClear s ∧ RunLenPrimed s ∧ PacketStateSound s.dec s.cfg.pktLen ∧
      4 ≤ s.cfg.pktLen.toNat ∧ s.cfg.pktLen.toNat ≤ cap := by
  constructor
  · rintro ⟨hdis, hrun, huns, hacc, ⟨hidx, hlo, hhi⟩, hfirst⟩
    exact ⟨hdis, hrun, ⟨huns, hacc, hidx, hfirst⟩, hlo, hhi⟩
  · rintro ⟨hdis, hrun, ⟨huns, hacc, hidx, hfirst⟩, hlo, hhi⟩
    exact ⟨hdis, hrun, huns, hacc, ⟨hidx, hlo, hhi⟩, hfirst⟩

theorem packetStateSound_reset {len : BitVec 5} (hl : 4 ≤ len.toNat) : PacketStateSound .reset len where
  unsynced := fun _ => ⟨rfl, rfl, rfl, rfl⟩
  accBits := by decide
  index := Nat.lt_of_lt_of_le (by decide) hl
  first := fun _ => ⟨rfl, rfl⟩

/-- R120: acquisition starts an empty packet. -/
theorem packetStateSound_acquired {len : BitVec 5} (hl : 4 ≤ len.toNat) : PacketStateSound .acquired len where
  unsynced := nofun
  accBits := by decide
  index := Nat.lt_of_lt_of_le (by decide) hl
  first := fun _ => ⟨rfl, rfl⟩

/-- R141: discarding the preamble's edge takes no bit. -/
theorem PacketStateSound.discardFirst {d : DecoderState} {len : BitVec 5} (h : PacketStateSound d len)
    (hs : d.sync = true) : PacketStateSound { d with firstEdge := false } len where
  unsynced := fun h0 => absurd (hs.symm.trans h0) nofun
  accBits := h.accBits
  index := h.index
  first := nofun

/-- R143: `n` bits and one more are `n + 1` bits. -/
theorem shiftIn_lt_two_pow_succ (a : Byte) (b : Bool) (n : Nat) (h : a.toNat < 2 ^ n) :
    (shiftIn a b).toNat < 2 ^ (n + 1) := by
  have hmod : (shiftIn a b).toNat ≤ 2 * a.toNat + b.toNat := shiftIn_toNat a b ▸ Nat.mod_le _ _
  have hb : b.toNat ≤ 1 := Bool.toNat_le b
  rw [Nat.pow_succ]
  omega

/-- R143: a bit short of the eighth leaves a partial byte. -/
theorem PacketStateSound.shiftBit {d : DecoderState} {len : BitVec 5} (h : PacketStateSound d len) (b : Bool)
    (hs : d.sync = true) (hf : d.firstEdge = false) (h7 : d.bitCnt ≠ 7) :
    PacketStateSound { d with acc := shiftIn d.acc b, bitCnt := d.bitCnt + 1 } len where
  unsynced := fun h0 => absurd (hs.symm.trans h0) nofun
  accBits := by
    obtain ⟨hcnt, hacc⟩ := h.accBits
    have hlt : d.bitCnt.toNat < 7 := Nat.lt_of_le_of_ne hcnt fun e => h7 (BitVec.eq_of_toNat_eq e)
    have hsucc : (d.bitCnt + 1).toNat = d.bitCnt.toNat + 1 := by bv_omega
    refine ⟨by simp only [hsucc]; omega, ?_⟩
    simp only [hsucc]
    exact shiftIn_lt_two_pow_succ _ _ _ hacc
  index := h.index
  first := fun h1 => absurd (hf.symm.trans h1) nofun

/-- R144: a committed byte that does not complete the packet leaves the index below the packet length. -/
theorem PacketStateSound.nextByte {d : DecoderState} {len : BitVec 5} (h : PacketStateSound d len)
    (hs : d.sync = true) (hf : d.firstEdge = false) (hl : d.byteIdx + 1 ≠ len) :
    PacketStateSound { d with byteIdx := d.byteIdx + 1, bitCnt := 0, acc := 0 } len where
  unsynced := fun h0 => absurd (hs.symm.trans h0) nofun
  accBits := by simp
  index := by
    have hidx := h.index
    bv_omega
  first := fun h1 => absurd (hf.symm.trans h1) nofun

/-! ## The invariant of R55 -/

/-- The invariants of R55 read the edge detector, the decoder and the configuration only. -/
theorem decoderInv_congr {s t : State cap} (hedge : t.edge = s.edge) (hdec : t.dec = s.dec) (hcfg : t.cfg = s.cfg)
    (h : DecoderInv s) : DecoderInv t := by
  simpa only [DecoderInv, DisabledIsClear, RunLenPrimed, UnsyncedIsClear, AccHoldsBits, IndexInPacket, FirstEdgeIsClear,
    hedge, hdec, hcfg] using h

/-- A cleared decoder (R53) under a legal packet length meets the invariants, enabled or not. -/
theorem decoderInv_of_clear {t : State cap} (hedge : t.edge = .reset) (hdec : t.dec = .reset)
    (hlo : 4 ≤ t.cfg.pktLen.toNat) (hhi : t.cfg.pktLen.toNat ≤ cap) : DecoderInv t := by
  refine (decoderInv_iff t).2 ⟨fun _ => ⟨hedge, hdec⟩, ?_, hdec ▸ packetStateSound_reset hlo, hlo, hhi⟩
  rw [RunLenPrimed, hedge]
  decide

/-- R102, R105: after an accepted sample the edge detector is primed with a run of at least 1, so the invariants hold if
the stages behind it left a sound packet state. -/
theorem decoderInv_of_sample {pol : Bool} {s t : State cap} (h : DecoderInv s) (hen : s.cfg.en = true)
    (hedge : t.edge = edgeAfter pol s.edge) (hcfg : t.cfg = s.cfg) (hdec : PacketStateSound t.dec s.cfg.pktLen) :
    DecoderInv t := by
  obtain ⟨-, -, -, hlo, hhi⟩ := (decoderInv_iff s).1 h
  refine (decoderInv_iff t).2 ⟨?_, ?_, hcfg ▸ hdec, hcfg ▸ hlo, hcfg ▸ hhi⟩
  · intro hdis
    rw [hcfg, hen] at hdis
    cases hdis
  · rw [RunLenPrimed, hedge]
    exact ⟨fun _ => nextRun_pos pol s.edge, fun _ => rfl⟩

/-- R120: SyncStep keeps the packet state or starts an empty packet. -/
theorem syncStep_true_dec (s : State cap) : (syncStep true s).dec = s.dec ∨ (syncStep true s).dec = .acquired := by
  rw [syncStep_true]
  split
  · exact .inr rfl
  · exact .inl rfl

@[simp] theorem syncStep_true_edge (s : State cap) : (syncStep true s).edge = s.edge := by
  rw [syncStep_true]; split <;> rfl

@[simp] theorem syncStep_true_cfg (s : State cap) : (syncStep true s).cfg = s.cfg := by
  rw [syncStep_true]; split <;> rfl

@[simp] theorem takeBit_edge (b : Bool) (s : State cap) : (takeBit b s).edge = s.edge := by
  obtain ⟨-, h⟩ | ⟨-, -, h⟩ | ⟨-, -, h⟩ := takeBit_cases b s <;> rw [h] <;> rfl

@[simp] theorem takeBit_cfg (b : Bool) (s : State cap) : (takeBit b s).cfg = s.cfg := by
  obtain ⟨-, h⟩ | ⟨-, -, h⟩ | ⟨-, -, h⟩ := takeBit_cases b s <;> rw [h] <;> rfl

/-- R143 to R145: whichever way a data bit goes, it leaves a sound packet state. -/
theorem packetStateSound_takeBit (b : Bool) (s : State cap) (h : PacketStateSound s.dec s.cfg.pktLen)
    (hlo : 4 ≤ s.cfg.pktLen.toNat) (hs : s.dec.sync = true) (hf : s.dec.firstEdge = false) :
    PacketStateSound (takeBit b s).dec s.cfg.pktLen := by
  obtain ⟨h7, heq⟩ | ⟨-, hl, heq⟩ | ⟨-, -, heq⟩ := takeBit_cases b s <;> rw [heq]
  · exact h.shiftBit b hs hf h7
  · exact h.nextByte hs hf hl
  · exact packetStateSound_reset hlo

/-- R105: a sample of either polarity keeps the invariants. -/
theorem polarityStep_keeps_decoderInv (pol : Bool) (s : State cap) (h : DecoderInv s) :
    DecoderInv (polarityStep pol s) := by
  obtain ⟨-, -, hsound, hlo, -⟩ := (decoderInv_iff s).1 h
  obtain ⟨-, heq⟩ | ⟨hen, -, heq⟩ | ⟨hen, -, -, heq⟩ | ⟨hen, -, hs, -, heq⟩ | ⟨hen, -, hs, hf, -, heq⟩ :=
    polarityStep_cases pol s <;> rw [heq]
  case inl => exact h
  case inr.inl =>
    refine decoderInv_of_sample (pol := true) h hen (by simp) (by simp) ?_
    rcases syncStep_true_dec (s.setEdge (edgeAfter true s.edge)) with hd | hd <;> rw [hd]
    · exact hsound
    · exact packetStateSound_acquired hlo
  case inr.inr.inl => exact decoderInv_of_sample (pol := false) h hen rfl rfl hsound
  case inr.inr.inr.inl => exact decoderInv_of_sample (pol := false) h hen rfl rfl (hsound.discardFirst hs)
  case inr.inr.inr.inr =>
    exact decoderInv_of_sample (pol := false) h hen (by simp) (by simp)
      (packetStateSound_takeBit _ (s.setEdge (edgeAfter false s.edge)) hsound hlo hs hf)

/-- R212: CTRL clears the decoder when it disables it, and changes no packet length. -/
theorem controlWrite_keeps_decoderInv (d : RegWord) (s : State cap) (h : DecoderInv s) :
    DecoderInv (((s.clearCounters d).disableClear d).setCfg (ctrlWritten d s.cfg)) := by
  obtain ⟨hdis, hrun, hsound, hlo, hhi⟩ := (decoderInv_iff s).1 h
  cases hen : s.cfg.en with
  | false =>
    obtain ⟨hedge, hdec⟩ := hdis hen
    exact decoderInv_of_clear (by simp [hedge]) (by simp [hdec]) hlo hhi
  | true =>
    cases hd : ctrlEn d with
    | false => exact decoderInv_of_clear (by simp [hen, hd]) (by simp [hen, hd]) hlo hhi
    | true =>
      refine (decoderInv_iff _).2 ⟨?_, ?_, ?_, hlo, hhi⟩
      · intro h0
        exact absurd (hd.symm.trans h0) nofun
      · simpa [RunLenPrimed, hd] using hrun
      · simpa [hd, ctrlWritten] using hsound

/-- R202: a locked register changes only while the decoder is disabled, hence clear, and PKT_LEN stays legal. -/
theorem lockedWrite_keeps_decoderInv {c : ConfigRegs} (s : State cap) (hc : LockedWrite cap s.cfg c) (h : DecoderInv s) :
    DecoderInv (if s.cfg.en = true then s else s.setCfg c) := by
  obtain ⟨hdis, -, -, hlo, hhi⟩ := (decoderInv_iff s).1 h
  split
  case isTrue => exact h
  case isFalse hen =>
    obtain ⟨hedge, hdec⟩ := hdis (Bool.eq_false_of_not_eq_true hen)
    have hlegal : 4 ≤ c.pktLen.toNat ∧ c.pktLen.toNat ≤ cap := hc.pktLen.elim (fun e => e ▸ ⟨hlo, hhi⟩) id
    exact decoderInv_of_clear hedge hdec hlegal.1 hlegal.2

theorem four_le_pktLenReset : 4 ≤ Config.pktLenReset.toNat := by decide

/-- The reset packet length, 8, is legal at every capacity that holds it (R54, R43). -/
theorem resetOf_decoderInv (hcap : 8 ≤ cap) : DecoderInv (State.resetOf cap) :=
  decoderInv_of_clear rfl rfl four_le_pktLenReset hcap

theorem resetAll_decoderInv (hcap : 8 ≤ cap) (s : State cap) : DecoderInv s.resetAll :=
  decoderInv_of_clear rfl rfl four_le_pktLenReset hcap

/-- R55 items 1 to 6 are kept by every instruction. -/
theorem execAt_keeps_decoderInv (hcap : 8 ≤ cap) (i : Instr) (s t : State cap) (h : DecoderInv s)
    (ht : execAt i s = .next t) : DecoderInv t := by
  cases execAt_effect ht with
  | high m => exact polarityStep_keeps_decoderInv true s h
  | low m => exact polarityStep_keeps_decoderInv false s h
  | control d => exact controlWrite_keeps_decoderInv d s h
  | config i c hc => exact lockedWrite_keeps_decoderInv s hc h
  | reset => exact resetAll_decoderInv hcap s
  | read | status | pop | ignored => exact decoderInv_congr rfl rfl rfl h

/-- R55 items 1 to 6 are kept by every cycle. -/
theorem stepAt_keeps_decoderInv (hcap : 8 ≤ cap) (s t : State cap) (h : DecoderInv s) (ht : stepAt s = .next t) :
    DecoderInv t :=
  stepAt_keeps (P := DecoderInv) (fun _ => decoderInv_congr rfl rfl rfl) (execAt_keeps_decoderInv hcap) s t h ht

/-- R144: the byte a data bit commits lies in the buffer. -/
theorem byteIdx_lt_cap_of_decoderInv {s : State cap} (h : DecoderInv s) : s.dec.byteIdx.toNat < cap := by
  obtain ⟨-, -, hsound, -, hhi⟩ := (decoderInv_iff s).1 h
  exact Nat.lt_of_lt_of_le hsound.index hhi

/-- Settles O46: every way an instruction can act keeps the invariants, and they bound the index by the packet length. -/
theorem bufferWritesInBoundsAtEveryCapacity : Obligations.BufferWritesInBoundsAtEveryCapacity :=
  ⟨fun _ hcap => resetOf_decoderInv hcap, fun _ s t hcap => stepAt_keeps_decoderInv hcap s t,
    fun _ _ => byteIdx_lt_cap_of_decoderInv⟩

/-- Settles O44: the two dispatches agree arm by arm, and the step and the machine are built from the dispatch alike. -/
theorem hardwareIsTheInstanceOfCapacity16 : Obligations.HardwareIsTheInstanceOfCapacity16 :=
  ⟨exec_eq_execAt, step_eq_stepAt, core_eq_coreAt, rfl⟩

/-- Settles O45: the lock of R202 and the range of R43 are the two conditions of the write. -/
theorem packetLengthLegalUpToCapacity : Obligations.PacketLengthLegalUpToCapacity := by
  intro cap d s
  rw [execAt, execWrPktLen_eq]
  simp only [pktLenLegal_iff]
  rfl

end Sys2Proof.Machine
end

section
/-! PROOFS. The state right after reset and after RST (R54, R38, R400), and the invariants of the state that every cycle
keeps: the decoder's (R55 items 1 to 6), the counters' nesting (R55 item 7) and the padding of the latch (R33). -/

open Sys2Proof Sys2Proof.Machine

namespace Sys2Proof.Machine

variable {cap : Nat}

/-! ## The state after reset (R54) and what the bus reads of it (R38) -/

/-- Settles O23: the reset constants are the table's values, and a latch of zero bytes reads 0x00 everywhere. -/
theorem resetStateValues : Obligations.ResetStateValues :=
  ⟨rfl, rfl, rfl, fun i _ => Buffer.byte_zero i, rfl, rfl, rfl, rfl, rfl, rfl, rfl, rfl⟩

/-- The reset column of the register map (R38), 0 at every address without a register. -/
def resetReading (a : BusAddr) : RegWord :=
  if a = 0x08 then 0x28 else if a = 0x0C then 0x14 else if a = 0x10 then 0x8 else if a = 0x30 then 0x01000000 else 0

/-- The four addresses with a reading other than 0 belong to named registers. -/
theorem resetReading_of_not_named (a : BusAddr) (h : a ∉ namedReads) : resetReading a = 0 := by
  simp only [namedReads, List.mem_cons, not_or] at h
  obtain ⟨-, -, h08, h0C, h10, -, -, -, -, -, -, h30, -⟩ := h
  rw [resetReading, if_neg h08, if_neg h0C, if_neg h10, if_neg h30]

theorem rxByteAddr_not_mem_namedReads (i : BitVec 4) : rxByteAddr i ∉ namedReads := by revert i; decide

theorem not_mem_namedReads_of_not_named {a : BusAddr} (h : readIsNamed a = false) : a ∉ namedReads := by
  rw [readIsNamed, Bool.or_eq_false_iff] at h
  simpa using h.1

theorem ctrlWord_resetAll (s : State cap) : ctrlWord s.resetAll = 0 := BitVec.eq_of_toNat_eq (ctrlWord_toNat s.resetAll)

theorem statusWord_resetAll (s : State cap) : statusWord s.resetAll = 0 :=
  BitVec.eq_of_toNat_eq (statusWord_toNat s.resetAll)

/-- FIRST_EDGE, bit 24 of DBG, is the one composed bit that is 1 after reset (R27, R49). -/
theorem dbgWord_resetAll (s : State cap) : dbgWord s.resetAll = 0x01000000 := by
  apply BitVec.eq_of_toNat_eq
  rw [dbgWord_toNat, State.resetAll_dec]
  decide

/-- R38, R400: after RST, the instruction of every read address puts the reset reading on `bus_rdata`. -/
theorem read_after_resetAll (a : BusAddr) (d : RegWord) (s : State) :
    ∃ u, exec (decodeRead a d) s.resetAll = .next u ∧ u.busRdata = some (resetReading a) := by
  refine decodeRead_cases (P := fun a i => ∃ u, exec i s.resetAll = .next u ∧ u.busRdata = some (resetReading a)) d
    ?rdCtrl ?rdStatus ?rdSyncMin ?rdBitThresh ?rdPktLen ?rdChkOffset ?rdAddrFilter ?rdPktTotal ?rdPktChkOk ?rdPktAddrOk
    ?rdRxLen ?rdDbg ?rdRunLen ?rdRxByte ?rdZero a
  case rdRxByte =>
    intro i
    refine ⟨_, rfl, ?_⟩
    rw [resetReading_of_not_named _ (rxByteAddr_not_mem_namedReads i)]
    exact congrArg (some ∘ zext32) (Buffer.byte_zero i.toNat)
  case rdZero =>
    intro a ha
    rw [resetReading_of_not_named a (not_mem_namedReads_of_not_named ha)]
    exact ⟨_, rfl, rfl⟩
  case rdCtrl => exact ⟨_, rfl, congrArg some (ctrlWord_resetAll s)⟩
  case rdStatus => exact ⟨_, rfl, congrArg some (statusWord_resetAll s)⟩
  case rdDbg => exact ⟨_, rfl, congrArg some (dbgWord_resetAll s)⟩
  all_goals exact ⟨_, rfl, rfl⟩

/-- Settles O25: RST leaves `resetAll`, and a bus word with `bus_we` 0 is a read of its address. -/
theorem registersReadAfterReset : Obligations.RegistersReadAfterReset := by
  intro a d s t ht
  cases ht
  rw [decodeBus_busWord]
  exact read_after_resetAll a d s

theorem latchPadded_of_zero {t : State cap} (h : t.rx.bytes = Buffer.zero) : LatchPadded t := by
  intro i _
  rw [h, Buffer.byte_zero]

/-- Settles O38: at reset the decoder is clear, the counters are zero and so is the latch. -/
theorem decoderInvariantAtReset : Obligations.DecoderInvariantAtReset :=
  ⟨resetOf_decoderInv (by decide), ⟨Nat.le_refl 0, Nat.le_refl 0⟩, latchPadded_of_zero rfl⟩

/-! ## What a sample does to counters and latch (R145, R160) -/

@[simp] theorem syncStep_true_cnt (s : State cap) : (syncStep true s).cnt = s.cnt := by
  rw [syncStep_true]; split <;> rfl

@[simp] theorem syncStep_true_rx (s : State cap) : (syncStep true s).rx = s.rx := by
  rw [syncStep_true]; split <;> rfl

/-- R145, R160: a sample leaves counters and latch alone, or it completes a packet and Validate is all that touches them. -/
theorem polarityStep_packet_cases (pol : Bool) (s : State cap) :
    ((polarityStep pol s).cnt = s.cnt ∧ (polarityStep pol s).rx = s.rx) ∨
    ∃ u, u.cnt = s.cnt ∧ u.rx = s.rx ∧ polarityStep pol s = (validate u).setDec .reset := by
  obtain ⟨-, heq⟩ | ⟨-, -, heq⟩ | ⟨-, -, -, heq⟩ | ⟨-, -, -, -, heq⟩ | ⟨-, -, -, -, -, heq⟩ :=
    polarityStep_cases pol s <;> rw [heq]
  case inl => exact .inl ⟨rfl, rfl⟩
  case inr.inl => exact .inl ⟨by simp, by simp⟩
  case inr.inr.inl | inr.inr.inr.inl => exact .inl ⟨rfl, rfl⟩
  case inr.inr.inr.inr =>
    obtain ⟨-, hbit⟩ | ⟨-, -, hbit⟩ | ⟨-, -, hbit⟩ :=
      takeBit_cases (classify s.edge.runLen s.cfg.bitThresh) (s.setEdge (edgeAfter false s.edge)) <;> rw [hbit]
    · exact .inl ⟨rfl, rfl⟩
    · exact .inl ⟨rfl, rfl⟩
    · exact .inr ⟨(s.setEdge (edgeAfter false s.edge)).setBuf
        (bufAfterBit (classify s.edge.runLen s.cfg.bitThresh) (s.setEdge (edgeAfter false s.edge))), rfl, rfl, rfl⟩

/-! ## A cycle is a host part and at most one sample (R81) -/

/-- Every BUS word decodes to an instruction of the bus port. -/
theorem encode_decodeBus_format (w : BusWord) : (encode (decodeBus w)).format = .bus := by
  obtain ⟨a, d, -, heq⟩ | ⟨a, d, -, heq⟩ := decodeBus_cases w <;> rw [heq]
  · exact decodeRead_cases (P := fun _ i => (encode i).format = .bus) d rfl rfl rfl rfl rfl rfl rfl rfl rfl rfl rfl rfl rfl
      (fun _ => rfl) (fun _ _ => rfl) a
  · exact decodeWrite_cases (P := fun _ i => (encode i).format = .bus) d rfl rfl rfl rfl rfl rfl rfl rfl
      (fun _ _ => rfl) a

/-- R91, R100: a sample word acts through its polarity alone. -/
theorem execAt_decodeSmp (w : SampleWord) (s : State cap) :
    execAt (decodeSmp w) s = .next (polarityStep (polarity w) s) := by
  have hpol : polarity w = !smpSign w := polarity_eq w
  rw [hpol, decodeSmp]
  cases smpSign w with
  | false => exact execSmpHi_eq _ s
  | true => exact execSmpLo_eq _ s

theorem runInstrs_singleton (ex : Instr → State cap → Host.Outcome (State cap) Fault Refusal) (i : Instr)
    (s : State cap) : runInstrs ex [i] s = ex i s := by
  rw [runInstrs]
  cases ex i s <;> rfl

theorem runInstrs_cons_eq_next {ex : Instr → State cap → Host.Outcome (State cap) Fault Refusal} {i : Instr}
    {is : List Instr} {s t : State cap} (h : runInstrs ex (i :: is) s = .next t) :
    ∃ u, ex i s = .next u ∧ runInstrs ex is u = .next t := by
  rw [runInstrs] at h
  split at h
  · exact ⟨_, ‹_›, h⟩
  · cases h
  · cases h

/-- What the host makes of the start of a cycle before the sample: nothing, or the effect of one BUS or PIN transaction. -/
inductive HostPart (s : State cap) : State cap → Prop where
  | idle : HostPart s s
  | transaction {i u} (h : Effect s i u) (hi : (encode i).format ≠ .smp) : HostPart s u

/-- The one inversion lemma of a cycle (R81). -/
theorem stepAt_parts {s t : State cap} (h : stepAt s = .next t) :
    ∃ u, HostPart s.beginCycle u ∧ (t = u ∨ ∃ pol, t = polarityStep pol u) := by
  rw [stepAt, runCycle] at h
  have hbus (w : BusWord) : (encode (decodeBus w)).format ≠ .smp := by simp [encode_decodeBus_format]
  obtain ⟨-, hi⟩ | ⟨-, -, -, hi⟩ | ⟨b, -, -, -, hi⟩ | ⟨x, -, -, -, hi⟩ | ⟨b, x, -, -, -, hi⟩ :=
    cycleInstrs_cases s.nextCycle <;> rw [hi] at h
  case inl =>
    rw [runInstrs_singleton] at h
    exact ⟨t, .transaction (execAt_effect h) (by decide), .inl rfl⟩
  case inr.inl => cases h; exact ⟨_, .idle, .inl rfl⟩
  case inr.inr.inl =>
    rw [runInstrs_singleton] at h
    exact ⟨t, .transaction (execAt_effect h) (hbus b), .inl rfl⟩
  case inr.inr.inr.inl =>
    rw [runInstrs_singleton, execAt_decodeSmp] at h
    cases h
    exact ⟨_, .idle, .inr ⟨_, rfl⟩⟩
  case inr.inr.inr.inr =>
    obtain ⟨u, hu, ht⟩ := runInstrs_cons_eq_next h
    rw [runInstrs_singleton, execAt_decodeSmp] at ht
    cases ht
    exact ⟨u, .transaction (execAt_effect hu) (hbus b), .inr ⟨_, rfl⟩⟩

/-! ## The decoder (R55 items 1 to 6) -/

/-- Settles O39: this hardware is the capacity 16, at which every cycle keeps the invariants. -/
theorem decoderInvariantKept : Obligations.DecoderInvariantKept := by
  intro s t h ht
  rw [step_eq_stepAt] at ht
  exact stepAt_keeps_decoderInv (by decide) s t h ht

/-! ## The counters (R55 item 7) -/

/-- R165, R212, R400: the host part of a cycle keeps the counters or clears them. -/
theorem HostPart.cnt {s u : State cap} (h : HostPart s u) : u.cnt = s.cnt ∨ u.cnt = .reset := by
  cases h with
  | idle => exact .inl rfl
  | transaction h hi =>
    cases h with
    | high | low => exact absurd rfl hi
    | read | status | pop | ignored => exact .inl rfl
    | config => split <;> exact .inl rfl
    | reset => exact .inr rfl
    | control d =>
      rw [State.setCfg_cnt, State.disableClear_cnt, State.clearCounters_cnt]
      split
      · exact .inr rfl
      · exact .inl rfl

/-- R165: short of a wrap, a counter event is one more. -/
theorem countIf_toNat {c : Bool} {n : BitVec 32} (h : n ≠ 0xFFFFFFFF) : (countIf c n).toNat = n.toNat + c.toNat := by
  cases c with
  | false => rfl
  | true =>
    rw [countIf, if_pos rfl, Bool.toNat_true]
    bv_omega

/-- R164, R165: a packet that is accepted passed the checksum, and one that passed it was counted, so counting a packet
keeps the nesting while PKT_TOTAL, and with it every counter, is short of its largest value. -/
theorem countersNested_countPacket {s t : State cap} {ok acc : Bool} (h : CountersNested s)
    (hmax : s.cnt.pktTotal ≠ 0xFFFFFFFF) (hacc : acc = true → ok = true) (ht : t.cnt = countPacket ok acc s.cnt) :
    CountersNested t := by
  obtain ⟨haddr, hchk⟩ := h
  have hchkMax : s.cnt.pktChkOk ≠ 0xFFFFFFFF := by bv_omega
  have haddrMax : s.cnt.pktAddrOk ≠ 0xFFFFFFFF := by bv_omega
  have hle : acc.toNat ≤ ok.toNat := Bool.toNat_le_toNat hacc
  have hone : ok.toNat ≤ 1 := Bool.toNat_le ok
  simp only [CountersNested, ht, countPacket, countIf_toNat hmax, countIf_toNat hchkMax, countIf_toNat haddrMax,
    Bool.toNat_true]
  omega

/-- R55 item 7: a sample counts at most one packet. -/
theorem polarityStep_keeps_countersNested (pol : Bool) (s : State cap) (h : CountersNested s)
    (hmax : s.cnt.pktTotal ≠ 0xFFFFFFFF) : CountersNested (polarityStep pol s) := by
  obtain ⟨hcnt, -⟩ | ⟨u, hcnt, -, heq⟩ := polarityStep_packet_cases pol s
  · rwa [CountersNested, hcnt]
  · refine countersNested_countPacket (ok := packetOk u) (acc := packetAccepted u) h hmax accepts_imp_ok ?_
    rw [heq, State.setDec_cnt, validate_cnt, hcnt]

/-- Settles O40: the host part keeps the counters or clears them, and the one sample after it counts at most one packet. -/
theorem countersNestedUntilWrap : Obligations.CountersNestedUntilWrap := by
  intro s t h hmax ht
  rw [step_eq_stepAt] at ht
  obtain ⟨u, hhost, hsample⟩ := stepAt_parts ht
  have hu : CountersNested u ∧ u.cnt.pktTotal ≠ 0xFFFFFFFF := by
    rcases hhost.cnt with hcnt | hcnt <;> rw [CountersNested, hcnt]
    · exact ⟨h, hmax⟩
    · decide
  rcases hsample with rfl | ⟨pol, rfl⟩
  · exact hu.1
  · exact polarityStep_keeps_countersNested pol u hu.1 hu.2

/-! ## The padding of the latch (R33) -/

theorem latchPadded_congr {s t : State cap} (hbytes : t.rx.bytes = s.rx.bytes) (hlen : t.rx.len = s.rx.len)
    (h : LatchPadded s) : LatchPadded t := by
  rwa [LatchPadded, hbytes, hlen]

/-- R167: the latch takes the first RX_LEN bytes of the buffer with 0x00 above them, or keeps what it holds. -/
theorem latchPadded_latchPacket {s t : State cap} {acc : Bool} {b : Buffer cap} {l : BitVec 5} (h : LatchPadded s)
    (ht : t.rx = latchPacket acc b l s.rx) : LatchPadded t := by
  rw [latchPacket] at ht
  split at ht
  · intro i hi
    rw [ht] at hi ⊢
    rw [Buffer.byte_first, if_neg (Nat.not_lt.2 hi)]
  · exact latchPadded_congr (by rw [ht]) (by rw [ht]) h

theorem polarityStep_keeps_latchPadded (pol : Bool) (s : State cap) (h : LatchPadded s) :
    LatchPadded (polarityStep pol s) := by
  obtain ⟨-, hrx⟩ | ⟨u, -, hrx, heq⟩ := polarityStep_packet_cases pol s
  · exact latchPadded_congr (by rw [hrx]) (by rw [hrx]) h
  · refine latchPadded_latchPacket (acc := packetAccepted u) (b := u.buf) (l := u.cfg.pktLen) h ?_
    rw [heq, State.setDec_rx, validate_rx, hrx]

/-- R33 is kept by every instruction: RX_POP releases the latch without a change of its bytes or length (R216). -/
theorem execAt_keeps_latchPadded (i : Instr) (s t : State cap) (h : LatchPadded s) (ht : execAt i s = .next t) :
    LatchPadded t := by
  cases execAt_effect ht with
  | high | low => exact polarityStep_keeps_latchPadded _ s h
  | read | status | pop | ignored => exact h
  | config => split <;> exact h
  | control d => exact latchPadded_congr (by simp) (by simp) h
  | reset => exact latchPadded_of_zero rfl

/-- Settles O41: every instruction keeps the padding, so every cycle does. -/
theorem latchPaddingKept : Obligations.LatchPaddingKept := by
  intro s t h ht
  rw [step_eq_stepAt] at ht
  exact stepAt_keeps (P := LatchPadded) (fun _ hs => hs) execAt_keeps_latchPadded s t h ht

end Sys2Proof.Machine
end

section
/-! PROOFS. The bytes of the packet buffer at and above the byte index are unobservable (R31): no stage but Validate reads
the buffer, and Validate reads the bytes of the packet it completes. -/

open Sys2Proof Sys2Proof.Machine

namespace Sys2Proof.Machine

variable {cap : Nat}

/-! ## What Validate reads of the buffer (R161 to R168) -/

theorem chkOk_congr {b c : Buffer cap} {l : Nat} (hl : 0 < l) (h : ∀ i, i < l → b.byte i = c.byte i) (offset : Byte) :
    chkOk b l offset = chkOk c l offset := by
  rw [chkOk, chkOk, h (l - 1) (by omega), byteSum_congr fun i hi => h i (by omega)]

theorem addrMatch_congr {b c : Buffer cap} (h : ∀ i, i < 3 → b.byte i = c.byte i) (filter : BitVec 24) :
    addrMatch b filter = addrMatch c filter := by
  rw [addrMatch, addrMatch, h 0 (by decide), h 1 (by decide), h 2 (by decide)]

theorem latchPacket_congr {b c : Buffer cap} {l : BitVec 5} (h : ∀ i, i < l.toNat → b.byte i = c.byte i) (acc : Bool)
    (r : RxLatch cap) : latchPacket acc b l r = latchPacket acc c l r := by
  rw [latchPacket, latchPacket, Buffer.first_congr h]

theorem frameOf_congr {b c : Buffer cap} {l : BitVec 5} (h : ∀ i, i < l.toNat → b.byte i = c.byte i) (v : Verdict) :
    frameOf v b l = frameOf v c l := by
  rw [frameOf, frameOf, Buffer.first_congr h]

/-- Validate of a packet of legal length depends on the bytes of the packet alone. -/
theorem validate_setBuf {s : State cap} {b : Buffer cap} (hlen : 4 ≤ s.cfg.pktLen.toNat)
    (h : ∀ i, i < s.cfg.pktLen.toNat → b.byte i = s.buf.byte i) : validate (s.setBuf b) = (validate s).setBuf b := by
  have hok : packetOk (s.setBuf b) = packetOk s := chkOk_congr (Nat.lt_of_lt_of_le (by decide) hlen) h _
  have haddr : addrMatch b s.cfg.addrFilter = addrMatch s.buf s.cfg.addrFilter :=
    addrMatch_congr (fun i hi => h i (by omega)) _
  have hacc : packetAccepted (s.setBuf b) = packetAccepted s := by
    rw [packetAccepted, packetAccepted, hok, State.setBuf_buf, State.setBuf_cfg, haddr]
  rw [validate_eq, validate_eq, hok, hacc]
  simp only [State.setBuf_buf, State.setBuf_cfg, latchPacket_congr h, frameOf_congr h]
  rfl

/-! ## The sample stages

Two states that differ in the buffer alone are `s` and `s.setBuf b`. -/

theorem exists_setBuf_of_sameButUnwritten {s s' : State cap} (h : SameButUnwritten s s') :
    ∃ b, s' = s.setBuf b ∧ ∀ i, i < s.dec.byteIdx.toNat → b.byte i = s.buf.byte i :=
  ⟨s'.buf, h⟩

theorem sameButUnwritten_setBuf {t : State cap} {b : Buffer cap}
    (h : ∀ i, i < t.dec.byteIdx.toNat → b.byte i = t.buf.byte i) : SameButUnwritten t (t.setBuf b) :=
  ⟨rfl, h⟩

/-- SyncStep neither reads nor writes the buffer (R120). -/
theorem syncStep_setBuf (pol : Bool) (s : State cap) (b : Buffer cap) :
    syncStep pol (s.setBuf b) = (syncStep pol s).setBuf b := by
  have hfound : syncFound pol (s.setBuf b) = syncFound pol s := rfl
  rw [syncStep, syncStep, hfound]
  split <;> rfl

theorem syncStep_buf (pol : Bool) (s : State cap) : (syncStep pol s).buf = s.buf := by
  rw [syncStep]; split <;> rfl

theorem syncStep_cfg (pol : Bool) (s : State cap) : (syncStep pol s).cfg = s.cfg := by
  rw [syncStep]; split <;> rfl

/-- R120: SyncStep keeps the byte index or returns it to 0. -/
theorem syncStep_byteIdx_le (pol : Bool) (s : State cap) :
    (syncStep pol s).dec.byteIdx.toNat ≤ s.dec.byteIdx.toNat := by
  rw [syncStep]
  split
  · exact Nat.zero_le _
  · exact Nat.le_refl _

section
variable {s : State cap} {b : Buffer cap}

/-- R144: buffers that agree on the bytes already written still do with the byte a data bit commits. -/
theorem bufAfterBit_setBuf_byte (hb : ∀ i, i < s.dec.byteIdx.toNat → b.byte i = s.buf.byte i)
    (hcap : s.dec.byteIdx.toNat < cap) (c : Bool) (i : Nat) (hi : i < s.dec.byteIdx.toNat + 1) :
    (bufAfterBit c (s.setBuf b)).byte i = (bufAfterBit c s).byte i := by
  simp only [bufAfterBit, State.setBuf_buf, State.setBuf_dec, Buffer.byte_put, hcap, and_true]
  split
  · rfl
  · exact hb i (by omega)

/-- R143 to R145: a data bit commits the same byte into both buffers, and a packet it completes has no unwritten byte. -/
theorem takeBit_setBuf (hb : ∀ i, i < s.dec.byteIdx.toNat → b.byte i = s.buf.byte i) (hcap : s.dec.byteIdx.toNat < cap)
    (hlen : 4 ≤ s.cfg.pktLen.toNat) (c : Bool) : SameButUnwritten (takeBit c s) (takeBit c (s.setBuf b)) := by
  have hbytes := bufAfterBit_setBuf_byte hb hcap c
  obtain ⟨h7, heq⟩ | ⟨h7, hl, heq⟩ | ⟨h7, hl, heq⟩ := takeBit_cases c s <;> rw [heq]
  · rw [takeBit_of_ne c (s.setBuf b) h7]
    exact ⟨rfl, hb⟩
  · have hsucc : (s.dec.byteIdx + 1).toNat ≤ s.dec.byteIdx.toNat + 1 := by bv_omega
    rw [takeBit_commit c (s.setBuf b) h7 hl]
    exact ⟨rfl, fun i hi => hbytes i (Nat.lt_of_lt_of_le hi hsucc)⟩
  · have hpkt : s.cfg.pktLen.toNat = s.dec.byteIdx.toNat + 1 := by bv_omega
    have hval : validate ((s.setBuf b).setBuf (bufAfterBit c (s.setBuf b))) = _ :=
      validate_setBuf (s := s.setBuf (bufAfterBit c s)) hlen fun i hi => hbytes i (hpkt ▸ hi)
    rw [takeBit_complete c (s.setBuf b) h7 hl, hval]
    exact ⟨rfl, nofun⟩

/-- R140: BitStep with or without a data bit. -/
theorem bitStep_setBuf (hb : ∀ i, i < s.dec.byteIdx.toNat → b.byte i = s.buf.byte i) (hcap : s.dec.byteIdx.toNat < cap)
    (hlen : 4 ≤ s.cfg.pktLen.toNat) (ev : EdgeEvent) : SameButUnwritten (bitStep ev s) (bitStep ev (s.setBuf b)) := by
  rw [bitStep, bitStep, State.setBuf_dec, State.setBuf_cfg]
  split
  · exact sameButUnwritten_setBuf hb
  · split
    · exact sameButUnwritten_setBuf (t := s.setDec { s.dec with firstEdge := false }) hb
    · exact takeBit_setBuf hb hcap hlen _

/-- R105: a sample of either polarity. -/
theorem polarityStep_setBuf (hinv : DecoderInv s) (hb : ∀ i, i < s.dec.byteIdx.toNat → b.byte i = s.buf.byte i)
    (pol : Bool) : SameButUnwritten (polarityStep pol s) (polarityStep pol (s.setBuf b)) := by
  obtain ⟨-, -, -, hlo, -⟩ := (decoderInv_iff s).1 hinv
  have hcap := byteIdx_lt_cap_of_decoderInv hinv
  cases hen : s.cfg.en with
  | false =>
    rw [polarityStep_disabled pol s hen, polarityStep_disabled pol (s.setBuf b) hen]
    exact sameButUnwritten_setBuf hb
  | true =>
    have hidx := syncStep_byteIdx_le pol (s.setEdge (edgeAfter pol s.edge))
    have hsync : syncStep pol ((s.setBuf b).setEdge (edgeAfter pol s.edge)) = _ :=
      syncStep_setBuf pol (s.setEdge (edgeAfter pol s.edge)) b
    rw [polarityStep_enabled pol s hen, polarityStep_enabled pol (s.setBuf b) hen, State.setBuf_edge, hsync]
    refine bitStep_setBuf (fun i hi => ?_) (Nat.lt_of_le_of_lt hidx hcap) ?_ _
    · rw [syncStep_buf]
      exact hb i (Nat.lt_of_lt_of_le hi hidx)
    · rw [syncStep_cfg]
      exact hlo

end

/-! ## The bus transactions and RST -/

theorem writeUnlocked_setBuf (f : ConfigRegs → ConfigRegs) (s : State cap) (b : Buffer cap) :
    writeUnlocked f (s.setBuf b) = (writeUnlocked f s).setBuf b := by
  rw [writeUnlocked, writeUnlocked, State.setBuf_cfg]
  split <;> rfl

theorem clearCounters_setBuf (d : RegWord) (s : State cap) (b : Buffer cap) :
    (s.setBuf b).clearCounters d = (s.clearCounters d).setBuf b := by
  rw [State.clearCounters, State.clearCounters]
  split <;> rfl

theorem disableClear_setBuf (d : RegWord) (s : State cap) (b : Buffer cap) :
    (s.setBuf b).disableClear d = (s.disableClear d).setBuf b := by
  rw [State.disableClear, State.disableClear, State.setBuf_cfg]
  split <;> rfl

/-- No bus transaction reads the buffer or writes it. -/
theorem execAt_setBuf {i : Instr} {s t : State cap} (hi : (encode i).format = .bus) (b : Buffer cap)
    (ht : execAt i s = .next t) : execAt i (s.setBuf b) = .next (t.setBuf b) := by
  cases i with
  | smpHi | smpLo | rst => cases hi
  | wrSyncMin | wrBitThresh | wrPktLen | wrChkOffset | wrAddrFilter =>
    cases ht
    exact congrArg _ (writeUnlocked_setBuf _ s b)
  | wrCtrl d =>
    cases ht
    rw [execAt, execWrCtrl, clearCounters_setBuf, disableClear_setBuf]
    rfl
  | _ => cases ht; rfl

/-- A bus transaction leaves the buffer, and the decoder unless it clears it (R53, R212). -/
theorem Effect.buf_dec_of_bus {i : Instr} {s t : State cap} (h : Effect s i t) (hi : (encode i).format = .bus) :
    t.buf = s.buf ∧ (t.dec = s.dec ∨ t.dec = .reset) := by
  cases h with
  | high | low | reset => cases hi
  | read | status | pop | ignored => exact ⟨rfl, .inl rfl⟩
  | config => split <;> exact ⟨rfl, .inl rfl⟩
  | control d =>
    refine ⟨by simp, ?_⟩
    rw [State.setCfg_dec, State.disableClear_dec, State.clearCounters_dec]
    split
    · exact .inr rfl
    · exact .inl rfl

/-! ## Instructions and cycles -/

/-- R31: an instruction keeps two states equal but for unwritten bytes. -/
theorem execAt_keeps_sameButUnwritten (i : Instr) {s s' t t' : State cap} (hinv : DecoderInv s)
    (h : SameButUnwritten s s') (ht : execAt i s = .next t) (ht' : execAt i s' = .next t') : SameButUnwritten t t' := by
  obtain ⟨b, rfl, hb⟩ := exists_setBuf_of_sameButUnwritten h
  have bus (hi : (encode i).format = .bus) : SameButUnwritten t t' := by
    rw [execAt_setBuf hi b ht] at ht'
    cases ht'
    obtain ⟨hbuf, hdec⟩ := (execAt_effect ht).buf_dec_of_bus hi
    refine sameButUnwritten_setBuf fun j hj => ?_
    rcases hdec with hdec | hdec <;> rw [hdec] at hj
    · exact hbuf ▸ hb j hj
    · exact absurd hj (Nat.not_lt_zero j)
  cases i with
  | smpHi m =>
    rw [execAt, execSmpHi_eq] at ht ht'
    cases ht; cases ht'
    exact polarityStep_setBuf hinv hb true
  | smpLo m =>
    rw [execAt, execSmpLo_eq] at ht ht'
    cases ht; cases ht'
    exact polarityStep_setBuf hinv hb false
  | rst =>
    cases ht; cases ht'
    exact ⟨rfl, fun _ _ => rfl⟩
  | _ => exact bus rfl

/-- What every instruction keeps of two runs, a sequence of instructions keeps. -/
theorem runInstrs_relates {R : State cap → State cap → Prop}
    {ex : Instr → State cap → Host.Outcome (State cap) Fault Refusal}
    (h : ∀ i s s' t t', R s s' → ex i s = .next t → ex i s' = .next t' → R t t') (is : List Instr) :
    ∀ s s' t t', R s s' → runInstrs ex is s = .next t → runInstrs ex is s' = .next t' → R t t' := by
  induction is with
  | nil => intro s s' t t' hs ht ht'; cases ht; cases ht'; exact hs
  | cons i is ih =>
    intro s s' t t' hs ht ht'
    obtain ⟨u, hu, hrun⟩ := runInstrs_cons_eq_next ht
    obtain ⟨u', hu', hrun'⟩ := runInstrs_cons_eq_next ht'
    exact ih u u' t t' (h i s s' u u' hs hu hu') hrun hrun'

/-- R31: a cycle keeps two states equal but for unwritten bytes; the invariants are carried along for the byte index. -/
theorem stepAt_keeps_sameButUnwritten (hcap : 8 ≤ cap) {s s' t t' : State cap} (hinv : DecoderInv s)
    (h : SameButUnwritten s s') (ht : stepAt s = .next t) (ht' : stepAt s' = .next t') : SameButUnwritten t t' := by
  obtain ⟨b, rfl, hb⟩ := exists_setBuf_of_sameButUnwritten h
  have hstart : DecoderInv s.beginCycle ∧ SameButUnwritten s.beginCycle (s.setBuf b).beginCycle :=
    ⟨decoderInv_congr rfl rfl rfl hinv, sameButUnwritten_setBuf (t := s.beginCycle) hb⟩
  refine (runInstrs_relates (R := fun u u' => DecoderInv u ∧ SameButUnwritten u u') ?_ _ _ _ t t' hstart ht ht').2
  rintro i u u' v v' ⟨hu, huu'⟩ hv hv'
  exact ⟨execAt_keeps_decoderInv hcap i u v hu hv, execAt_keeps_sameButUnwritten i hu huu' hv hv'⟩

/-- Settles O42: the two states stay equal but for the buffer, and no output is computed from it. -/
theorem unwrittenBufferUnobservable : Obligations.UnwrittenBufferUnobservable := by
  intro s s' t t' hinv h ht ht'
  rw [step_eq_stepAt] at ht ht'
  have hsame := stepAt_keeps_sameButUnwritten (by decide) hinv h ht ht'
  obtain ⟨b, rfl, -⟩ := exists_setBuf_of_sameButUnwritten hsame
  exact ⟨hsame, rfl, rfl, rfl, rfl⟩

end Sys2Proof.Machine
end

section
/-! PROOFS. A run of samples of one polarity (R25, R104): what a cycle with one sample does to the edge detector, and the
run length over any number of such cycles. -/

open Sys2Proof Sys2Proof.Machine

namespace Sys2Proof.Machine

variable {cap : Nat}

/-! ## A cycle that carries one sample -/

/-- R102, R105: the edge detector is the first stage's alone. -/
theorem polarityStep_edge (pol : Bool) (s : State cap) (hen : s.cfg.en = true) :
    (polarityStep pol s).edge = edgeAfter pol s.edge := by
  obtain ⟨h, -⟩ | ⟨-, rfl, heq⟩ | ⟨-, rfl, -, heq⟩ | ⟨-, rfl, -, -, heq⟩ | ⟨-, rfl, -, -, -, heq⟩ :=
    polarityStep_cases pol s
  case inl => exact absurd (hen.symm.trans h) nofun
  all_goals rw [heq]; simp

/-- A sample changes no configuration register (R105). -/
@[simp] theorem polarityStep_cfg (pol : Bool) (s : State cap) : (polarityStep pol s).cfg = s.cfg := by
  obtain ⟨-, heq⟩ | ⟨-, -, heq⟩ | ⟨-, -, -, heq⟩ | ⟨-, -, -, -, heq⟩ | ⟨-, -, -, -, -, heq⟩ :=
    polarityStep_cases pol s <;> rw [heq] <;> simp

@[simp] theorem syncStep_true_inputs (s : State cap) : (syncStep true s).inputs = s.inputs := by
  rw [syncStep_true]; split <;> rfl

@[simp] theorem takeBit_inputs (b : Bool) (s : State cap) : (takeBit b s).inputs = s.inputs := by
  obtain ⟨-, h⟩ | ⟨-, -, h⟩ | ⟨-, -, h⟩ := takeBit_cases b s <;> rw [h] <;> rfl

/-- A sample leaves the pins of the coming cycles. -/
@[simp] theorem polarityStep_inputs (pol : Bool) (s : State cap) : (polarityStep pol s).inputs = s.inputs := by
  obtain ⟨-, heq⟩ | ⟨-, -, heq⟩ | ⟨-, -, -, heq⟩ | ⟨-, -, -, -, heq⟩ | ⟨-, -, -, -, -, heq⟩ :=
    polarityStep_cases pol s <;> rw [heq] <;> simp

/-- R81, R91: a cycle that carries one sample and nothing else. -/
theorem stepAt_sample {s : State cap} {w : SampleWord} {rest : List Cycle} (h : s.inputs = cycleOf (.smp w) :: rest) :
    stepAt s = .next (polarityStep (polarity w) s.beginCycle) := by
  have hcycle : s.nextCycle = cycleOf (.smp w) := by rw [State.nextCycle, h]; rfl
  have hinstrs : cycleInstrs (cycleOf (.smp w)) = [decodeSmp w] := rfl
  rw [stepAt, runCycle, hcycle, hinstrs, runInstrs_singleton, execAt_decodeSmp]

/-! ## Runs of the machine -/

theorem run_succ_of_step {M : Host.Core} {s t : M.State} (h : M.step s = .next t) (n : Nat) :
    M.run (n + 1) s = M.run n t := by
  rw [Host.Core.run, h]

theorem run_add {M : Host.Core} {m : Nat} {s t : M.State} (h : M.run m s = .next t) (n : Nat) :
    M.run (m + n) s = M.run n t := by
  induction m generalizing s with
  | zero => cases h; rw [Nat.zero_add]
  | succ m ih =>
    rw [Host.Core.run] at h
    split at h
    · rw [Nat.succ_add, run_succ_of_step ‹_›, ih h]
    · cases h
    · cases h

/-- This hardware's run takes a sample from the pins. -/
theorem run_sample {s : State} {w : SampleWord} {rest : List Cycle} (h : s.inputs = cycleOf (.smp w) :: rest) (n : Nat) :
    Host.Core.run Sys2Proof.core (n + 1) s =
      Host.Core.run Sys2Proof.core n (polarityStep (polarity w) s.beginCycle) :=
  run_succ_of_step (M := Sys2Proof.core) ((step_eq_stepAt s).trans (stepAt_sample h)) n

/-! ## The run length (R25, R104) -/

theorem nextRun_of_new {pol : Bool} {e : EdgeState} (h : e.primed = true → e.prevPol = !pol) : nextRun pol e = 1 := by
  rw [nextRun]
  cases hp : e.primed with
  | false => rfl
  | true => rw [h hp]; cases pol <;> rfl

theorem nextRun_of_same {pol : Bool} {e : EdgeState} (hp : e.primed = true) (hpol : e.prevPol = pol) :
    nextRun pol e = satSucc e.runLen := by
  simp [nextRun, hp, hpol]

/-- An enabled state whose edge detector stands `n` samples into a run of one polarity. -/
structure InRun (pol : Bool) (n : Nat) (s : State cap) : Prop where
  en : s.cfg.en = true
  primed : s.edge.primed = true
  prevPol : s.edge.prevPol = pol
  runLen : s.edge.runLen.toNat = min n 0xFFFF

/-- R25: a sample after none, or after one of the other polarity, starts a run. -/
theorem InRun.start {pol : Bool} {s : State cap} (hen : s.cfg.en = true)
    (hprev : s.edge.primed = true → s.edge.prevPol = !pol) : InRun pol 1 (polarityStep pol s) where
  en := by rw [polarityStep_cfg, hen]
  primed := by rw [polarityStep_edge pol s hen]; rfl
  prevPol := by rw [polarityStep_edge pol s hen]; rfl
  runLen := by
    rw [polarityStep_edge pol s hen, edgeAfter, nextRun_of_new hprev]
    rfl

/-- R104: a further sample of the run counts one more, up to 0xFFFF. -/
theorem InRun.succ {pol : Bool} {n : Nat} {s : State cap} (h : InRun pol n s) :
    InRun pol (n + 1) (polarityStep pol s) where
  en := by rw [polarityStep_cfg, h.en]
  primed := by rw [polarityStep_edge pol s h.en]; rfl
  prevPol := by rw [polarityStep_edge pol s h.en]; rfl
  runLen := by
    have hrun := h.runLen
    rw [polarityStep_edge pol s h.en, edgeAfter, nextRun_of_same h.primed h.prevPol, satSucc_toNat]
    omega

theorem InRun.beginCycle {pol : Bool} {n : Nat} {s : State cap} (h : InRun pol n s) : InRun pol n s.beginCycle :=
  ⟨h.en, h.primed, h.prevPol, h.runLen⟩

/-- R104: `n` further samples of the run. -/
theorem run_continues (w : SampleWord) (rest : List Cycle) (n : Nat) : ∀ (m : Nat) (s : State),
    InRun (polarity w) m s → s.inputs = sampleCycles (List.replicate n w) ++ rest →
    ∃ t, Host.Core.run Sys2Proof.core n s = .next t ∧ InRun (polarity w) (m + n) t ∧ t.inputs = rest := by
  induction n with
  | zero => exact fun _ s hs hin => ⟨s, rfl, hs, hin⟩
  | succ n ih =>
    intro m s hs hin
    rw [run_sample hin]
    have hpins : (polarityStep (polarity w) s.beginCycle).inputs = sampleCycles (List.replicate n w) ++ rest := by
      rw [polarityStep_inputs, State.beginCycle_inputs, hin]; rfl
    obtain ⟨t, hrun, ht, hrest⟩ := ih (m + 1) _ hs.beginCycle.succ hpins
    exact ⟨t, hrun, by rwa [Nat.add_assoc, Nat.add_comm 1] at ht, hrest⟩

/-- R25, R104: the first sample of a run and the `n` after it. -/
theorem run_of_newRun (w : SampleWord) (rest : List Cycle) (n : Nat) {s : State} (hen : s.cfg.en = true)
    (hprev : s.edge.primed = true → s.edge.prevPol = !polarity w)
    (hin : s.inputs = sampleCycles (List.replicate (n + 1) w) ++ rest) :
    ∃ t, Host.Core.run Sys2Proof.core (n + 1) s = .next t ∧ InRun (polarity w) (n + 1) t ∧ t.inputs = rest := by
  rw [run_sample hin, Nat.add_comm n 1]
  exact run_continues w rest n 1 _ (InRun.start (s := s.beginCycle) hen hprev)
    (by rw [polarityStep_inputs, State.beginCycle_inputs, hin]; rfl)

/-- Samples fed in two parts: those that come first stand before the others. -/
theorem feeding_append (s : State cap) (ws ws' : List SampleWord) :
    s.feeding (ws ++ ws') = (s.feeding ws').feeding ws := by
  simp only [State.feeding, sampleCycles, List.map_append, List.append_assoc]

/-- Settles O20: the high samples are a new run, and the low samples after them are the next. -/
theorem runLengthCountsAndSaturates : Obligations.RunLengthCountsAndSaturates := by
  intro n k s hen hprev
  constructor
  · obtain ⟨t, hrun, ht, hrest⟩ := run_of_newRun highSample s.inputs n
      (s := s.feeding (List.replicate (n + 1) highSample)) hen hprev rfl
    exact ⟨t, hrun, ht.prevPol, ht.runLen, hrest⟩
  · rw [feeding_append]
    obtain ⟨u, hhigh, hu, hrestu⟩ := run_of_newRun highSample
      (s.feeding (List.replicate (k + 1) lowSample)).inputs n
      (s := (s.feeding (List.replicate (k + 1) lowSample)).feeding (List.replicate (n + 1) highSample)) hen hprev rfl
    obtain ⟨t, hlow, ht, hrest⟩ := run_of_newRun lowSample s.inputs k hu.en (fun _ => hu.prevPol) hrestu
    exact ⟨t, (run_add hhigh (k + 1)).trans hlow, ht.prevPol, ht.runLen, hrest⟩

end Sys2Proof.Machine
end

section
/-! PROOFS. The ports and the order of a cycle (R72, R78, R81, R85): the samples of a byte stream, the instructions that a
cycle's pins ask for, and what the bus and the samples leave alone. -/

open Sys2Proof Sys2Proof.Machine

namespace Sys2Proof.Machine

variable {cap : Nat}

/-! ## The byte stream of the sample port (R72) -/

theorem samplesOfBytes_length : ∀ bs : List Byte, (samplesOfBytes bs).length = bs.length / 2
  | [] => rfl
  | [_] => by simp [samplesOfBytes]
  | lo :: hi :: bs => by
    simp only [samplesOfBytes, List.length_cons, samplesOfBytes_length bs]
    omega

/-- R72: sample `k` is the pair of bytes `2k` (low) and `2k+1` (high). -/
theorem samplesOfBytes_getElem? : ∀ (bs : List Byte) (k : Nat), k < bs.length / 2 →
    (samplesOfBytes bs)[k]? = some (bs.getD (2 * k + 1) 0 ++ bs.getD (2 * k) 0)
  | [], k, hk | [_], k, hk => by simp at hk
  | lo :: hi :: bs, 0, _ => rfl
  | lo :: hi :: bs, k + 1, hk => by
    rw [List.length_cons, List.length_cons] at hk
    rw [samplesOfBytes, List.getElem?_cons_succ, samplesOfBytes_getElem? bs k (by omega)]
    rfl

/-- R91, R100: the polarity bit of a sample is the top bit of its high byte. -/
theorem polarity_append (hi lo : Byte) : polarity (hi ++ lo) = !hi.getLsbD 7 := by
  rw [polarity_eq, BitVec.getLsbD_append]
  rfl

/-- Settles O5: the cycles carry the samples of the stream, a pair of bytes each. -/
theorem sampleStreamIsLittleEndian : Obligations.SampleStreamIsLittleEndian := by
  intro bs
  refine ⟨by rw [cyclesOfBytes, List.length_map, samplesOfBytes_length], fun k hk => ⟨?_, polarity_append _ _⟩⟩
  rw [cyclesOfBytes, List.getElem?_map, samplesOfBytes_getElem? bs k hk]
  rfl

/-! ## The instructions of a cycle (R81) -/

theorem cycleInstrs_of_rst {c : Cycle} (h : c.rst = 1) : cycleInstrs c = [.rst] := by
  rw [cycleInstrs, h]
  rfl

/-- R81: without RST, the bus transaction comes before the sample. -/
theorem cycleInstrs_of_no_rst {c : Cycle} (h : c.rst = 0) :
    cycleInstrs c = (c.bus.map decodeBus).toList ++ (c.smp.map decodeSmp).toList := by
  rw [cycleInstrs, h]
  rfl

/-- R97: a cycle that carries one transaction runs what its word decodes to. -/
theorem cycleInstrs_cycleOf {t : TxWord} {i : Instr} (h : decode t = .ok i) : cycleInstrs (cycleOf t) = [i] := by
  cases t with
  | smp w | bus w => cases h; rfl
  | pin w =>
    have hpin : decodePin (cycleOf (.pin w)).rst = .ok i := h
    rw [cycleInstrs, hpin]

/-- What a step adds around the cycle's instructions: the pins leave the queue and the cycle's outputs end (R168). -/
theorem step_of_inputs (c : Cycle) (rest : List Cycle) (s : State) :
    step { s with inputs := c :: rest } =
      runInstrs exec (cycleInstrs c) { s with inputs := rest, busRdata := none, frm := .idle } := rfl

/-- Settles O6: the cycle's one instruction is the decoded one. -/
theorem stepRunsTheDecodedInstruction : Obligations.StepRunsTheDecodedInstruction := by
  intro t i rest s h
  rw [step_of_inputs, cycleInstrs_cycleOf h, runInstrs_singleton]
  rfl

/-- No instruction of this hardware stops (R300). -/
theorem exec_eq_next (i : Instr) (s : State) : ∃ t, exec i s = .next t := by
  cases i <;> exact ⟨_, rfl⟩

/-- R83: the second of two instructions runs at the state the first leaves. -/
theorem runInstrs_pair {ex : Instr → State cap → Host.Outcome (State cap) Fault Refusal} {i : Instr} {s t : State cap}
    (h : ex i s = .next t) (j : Instr) : runInstrs ex [i, j] s = ex j t := by
  rw [runInstrs, h]
  exact runInstrs_singleton ex j t

/-- Settles O7: a step runs the instructions of its cycle, in the order in which the cycle lists them. -/
theorem cycleOrder : Obligations.CycleOrder := by
  intro c rest s s₀ after
  have hafter : after = runInstrs exec (cycleInstrs c) s₀ := step_of_inputs c rest s
  rw [hafter]
  refine ⟨?reset, ?idle, ?bus, ?sample, ?both⟩
  case reset =>
    intro hrst
    rw [cycleInstrs_of_rst hrst, runInstrs_singleton]
  case idle =>
    intro hrst hbus hsmp
    rw [cycleInstrs_of_no_rst hrst, hbus, hsmp]
    rfl
  case bus =>
    intro b hrst hbus hsmp
    rw [cycleInstrs_of_no_rst hrst, hbus, hsmp]
    exact runInstrs_singleton exec (decodeBus b) s₀
  case sample =>
    intro x hrst hbus hsmp
    rw [cycleInstrs_of_no_rst hrst, hbus, hsmp]
    exact runInstrs_singleton exec (decodeSmp x) s₀
  case both =>
    intro b x hrst hbus hsmp
    obtain ⟨t, ht⟩ := exec_eq_next (decodeBus b) s₀
    rw [cycleInstrs_of_no_rst hrst, hbus, hsmp]
    exact ⟨t, ht, runInstrs_pair ht (decodeSmp x)⟩

/-! ## Reads (R78, R200) -/

/-- R200: the instruction of every read address answers on `bus_rdata` and does nothing else. -/
theorem exec_decodeRead (a : BusAddr) (d : RegWord) (s : State) :
    ∃ v, exec (decodeRead a d) s = .next (s.setBusRdata (some v)) :=
  decodeRead_cases (P := fun _ i => ∃ v, exec i s = .next (s.setBusRdata (some v))) d ⟨_, rfl⟩ ⟨_, rfl⟩ ⟨_, rfl⟩ ⟨_, rfl⟩
    ⟨_, rfl⟩ ⟨_, rfl⟩ ⟨_, rfl⟩ ⟨_, rfl⟩ ⟨_, rfl⟩ ⟨_, rfl⟩ ⟨_, rfl⟩ ⟨_, rfl⟩ ⟨_, rfl⟩ (fun _ => ⟨_, rfl⟩)
    (fun _ _ => ⟨_, rfl⟩) a

/-- Settles O30: a BUS word with `bus_we` 0 is a read of its address. -/
theorem readsChangeNoState : Obligations.ReadsChangeNoState := by
  intro w s hwe
  obtain ⟨a, d, -, heq⟩ | ⟨a, d, rfl, -⟩ := decodeBus_cases w
  · rw [heq]
    exact exec_decodeRead a d s
  · rw [busWord_bit40] at hwe
    exact absurd hwe (by decide)

/-! ## The latch while it is full (R85) -/

/-- R167: a packet that meets a full latch is not copied. -/
theorem latchPacket_of_full (acc : Bool) (b : Buffer cap) (l : BitVec 5) {r : RxLatch cap} (h : r.full = true) :
    latchPacket acc b l r = r := by
  simp [latchPacket, h]

theorem polarityStep_rx_of_full (pol : Bool) {s : State cap} (h : s.rx.full = true) :
    (polarityStep pol s).rx = s.rx := by
  obtain ⟨-, hrx⟩ | ⟨u, -, hrx, heq⟩ := polarityStep_packet_cases pol s
  · exact hrx
  · rw [heq, State.setDec_rx, validate_rx, hrx, latchPacket_of_full _ _ _ h]

/-- R85, R216: on a full latch RX_POP drops the flag, and nothing else but RST touches it. -/
theorem Effect.rx_of_full {i : Instr} {s t : State cap} (h : Effect s i t) (hrst : i ≠ .rst) (hfull : s.rx.full = true) :
    t.rx = s.rx ∨ i.opcode = .wrRxPop ∧ t.rx = { s.rx with full := false } := by
  cases h with
  | high | low => exact .inl (polarityStep_rx_of_full _ hfull)
  | read | status | ignored => exact .inl rfl
  | control d => exact .inl (by simp)
  | config => left; split <;> rfl
  | pop d => exact .inr ⟨rfl, rfl⟩
  | reset => exact absurd rfl hrst

/-- Settles O36: the latch is unchanged, or popped without a change of its bytes or length. -/
theorem latchStableWhileFull : Obligations.LatchStableWhileFull := by
  intro i s t hrst hfull ht
  obtain hrx | ⟨hpop, hrx⟩ := (exec_effect ht).rx_of_full hrst hfull <;> rw [hrx]
  · exact ⟨rfl, rfl, fun _ => hfull⟩
  · exact ⟨rfl, rfl, fun hne => absurd hpop hne⟩

end Sys2Proof.Machine
end

section
/-! PROOFS. Encoder, decoder and opcode map (R90 to R98): the encoder and the decoder are inverse to each other, the decoder
picks the first row of the map, and of a sample only the sign bit counts. -/

open Sys2Proof Sys2Proof.Machine

namespace Sys2Proof

/-! ## Encoding and then decoding (R91 to R93) -/

theorem decode_read (a : BusAddr) (d : RegWord) : decode (.bus (busWord 0 a d)) = .ok (decodeRead a d) :=
  congrArg Except.ok (decodeBus_busWord 0 a d)

theorem decode_write (a : BusAddr) (d : RegWord) : decode (.bus (busWord 1 a d)) = .ok (decodeWrite a d) :=
  congrArg Except.ok (decodeBus_busWord 1 a d)

theorem decodeSmp_smpWord_hi (m : BitVec 15) : decodeSmp (smpWord 0 m) = .smpHi m := by
  rw [decodeSmp, smpSign_smpWord, smpMagnitude_smpWord]
  rfl

theorem decodeSmp_smpWord_lo (m : BitVec 15) : decodeSmp (smpWord 1 m) = .smpLo m := by
  rw [decodeSmp, smpSign_smpWord, smpMagnitude_smpWord]
  rfl

/-- Settles O1: each format gives its fields back, and a well-formed catch-all has an address that no earlier row names. -/
theorem decodeEncodeRoundTrip : Obligations.DecodeEncodeRoundTrip := by
  intro i hwf
  cases i with
  | smpHi m => exact congrArg Except.ok (decodeSmp_smpWord_hi m)
  | smpLo m => exact congrArg Except.ok (decodeSmp_smpWord_lo m)
  | wrCtrl d | wrStatus d | wrSyncMin d | wrBitThresh d | wrPktLen d | wrChkOffset d | wrAddrFilter d | wrRxPop d =>
    exact decode_write _ d
  | rdRxByte k d => exact (decode_read _ d).trans (congrArg Except.ok (decodeRead_rxByteAddr k d))
  | rdZero a d =>
    rw [Instr.wf, Bool.not_eq_true'] at hwf
    exact (decode_read a d).trans (congrArg Except.ok (decodeRead_of_not_named a d hwf))
  | wrIgnored a d =>
    rw [Instr.wf, Bool.not_eq_true'] at hwf
    exact (decode_write a d).trans (congrArg Except.ok (decodeWrite_of_not_named a d hwf))
  | rst => rfl
  | _ d => exact decode_read _ d

/-! ## Decoding and then encoding (R93, R96) -/

/-- A well-formed instruction whose encoding is the word. -/
def EncodesTo (t : TxWord) (i : Instr) : Prop := i.wf = true ∧ encode i = t

theorem decodeSmp_encodesTo (w : SampleWord) : EncodesTo (.smp w) (decodeSmp w) := by
  have hfields := smpWord_fields w
  rw [decodeSmp]
  cases hs : smpSign w <;> rw [hs] at hfields <;> exact ⟨rfl, congrArg TxWord.smp hfields⟩

theorem decodeRead_encodesTo (a : BusAddr) (d : RegWord) : EncodesTo (.bus (busWord 0 a d)) (decodeRead a d) :=
  decodeRead_cases (P := fun a i => EncodesTo (.bus (busWord 0 a d)) i) d ⟨rfl, rfl⟩ ⟨rfl, rfl⟩ ⟨rfl, rfl⟩ ⟨rfl, rfl⟩
    ⟨rfl, rfl⟩ ⟨rfl, rfl⟩ ⟨rfl, rfl⟩ ⟨rfl, rfl⟩ ⟨rfl, rfl⟩ ⟨rfl, rfl⟩ ⟨rfl, rfl⟩ ⟨rfl, rfl⟩ ⟨rfl, rfl⟩
    (fun _ => ⟨rfl, rfl⟩) (fun _ h => ⟨by rw [Instr.wf, h]; rfl, rfl⟩) a

theorem decodeWrite_encodesTo (a : BusAddr) (d : RegWord) : EncodesTo (.bus (busWord 1 a d)) (decodeWrite a d) :=
  decodeWrite_cases (P := fun a i => EncodesTo (.bus (busWord 1 a d)) i) d ⟨rfl, rfl⟩ ⟨rfl, rfl⟩ ⟨rfl, rfl⟩ ⟨rfl, rfl⟩
    ⟨rfl, rfl⟩ ⟨rfl, rfl⟩ ⟨rfl, rfl⟩ ⟨rfl, rfl⟩ (fun _ h => ⟨by rw [Instr.wf, h]; rfl, rfl⟩) a

theorem decodeBus_encodesTo (w : BusWord) : EncodesTo (.bus w) (decodeBus w) := by
  obtain ⟨a, d, rfl, heq⟩ | ⟨a, d, rfl, heq⟩ := decodeBus_cases w <;> rw [heq]
  · exact decodeRead_encodesTo a d
  · exact decodeWrite_encodesTo a d

/-- R93: RST is the only transaction of the PIN format. -/
theorem decodePin_eq_ok {w : PinWord} {i : Instr} : decodePin w = .ok i ↔ w = 1 ∧ i = .rst := by
  rw [decodePin]
  split
  case isTrue h => simp [h, eq_comm]
  case isFalse h => exact ⟨nofun, fun hi => absurd hi.1 h⟩

/-- Settles O2: whatever the format, the decoded instruction keeps every bit of the word. -/
theorem everyWordIsATransaction : Obligations.EveryWordIsATransaction := by
  refine ⟨fun w => ⟨_, rfl⟩, fun w => ⟨_, rfl⟩, fun w => ⟨fun ⟨i, h⟩ => (decodePin_eq_ok.1 h).1, fun h => ⟨.rst, ?_⟩⟩, ?_⟩
  · exact decodePin_eq_ok.2 ⟨h, rfl⟩
  · intro t i h
    cases t with
    | smp w => cases h; exact decodeSmp_encodesTo w
    | bus w => cases h; exact decodeBus_encodesTo w
    | pin w =>
      obtain ⟨rfl, rfl⟩ := decodePin_eq_ok.1 h
      exact ⟨rfl, rfl⟩

/-! ## The opcode map (R95) -/

/-- The first row of the map that matches the word is the instruction's own. -/
def FirstRowIs (t : TxWord) (i : Instr) : Prop := (firstRow t).map OpRow.opcode = some i.opcode

/-- No row of the map looks at the write data. -/
theorem accepts_busWord {r : OpRow} (hr : r ∈ opcodeRows) (we : BitVec 1) (a : BusAddr) (d : RegWord) :
    r.accepts (.bus (busWord we a d)) = r.accepts (.bus (busWord we a 0)) := by
  have hmask : r.format = .bus → busWord (BitVec.ofBool (busWe r.mask)) (busAddr r.mask) 0 = r.mask :=
    (by decide : ∀ r ∈ opcodeRows, r.format = .bus →
      busWord (BitVec.ofBool (busWe r.mask)) (busAddr r.mask) 0 = r.mask) r hr
  have hzero : ∀ x : RegWord, x &&& 0 = 0 := fun _ => BitVec.and_zero
  simp only [OpRow.accepts, TxWord.format, TxWord.bits]
  cases hf : r.format == .bus with
  | false => simp only [Bool.false_and]
  | true => rw [← hmask (beq_iff_eq.1 hf), busWord_and, busWord_and, hzero, hzero]

theorem firstRow_busWord (we : BitVec 1) (a : BusAddr) (d : RegWord) :
    firstRow (.bus (busWord we a d)) = firstRow (.bus (busWord we a 0)) :=
  List.find?_congr fun _ hr => accepts_busWord hr we a d

theorem FirstRowIs.of_no_data {we : BitVec 1} {a : BusAddr} {i : Instr} (d : RegWord)
    (h : FirstRowIs (.bus (busWord we a 0)) i) : FirstRowIs (.bus (busWord we a d)) i := by
  rwa [FirstRowIs, firstRow_busWord]

/-- The rows before the two catch-alls: samples, one address each, and RD_RX_BYTE. -/
theorem earlyRow_cases : ∀ r ∈ opcodeRows.take 24, r.format = .smp ∨
    (r.mask = 0x1FF00000000 ∧ busAddr r.mtch ∈ namedReads ∧ r.mtch = busWord 0 (busAddr r.mtch) 0) ∨
    (r.mask = 0x1FF00000000 ∧ busAddr r.mtch ∈ namedWrites ∧ r.mtch = busWord 1 (busAddr r.mtch) 0) ∨
    (r.mask = 0x1C300000000 ∧ r.mtch = busWord 0 0x40 0) := by
  decide

/-- A row before the catch-alls matches the addresses it names only. -/
theorem earlyRow_accepts {r : OpRow} (hr : r ∈ opcodeRows.take 24) {we : BitVec 1} {a : BusAddr} {d : RegWord}
    (h : r.accepts (.bus (busWord we a d)) = true) :
    we = 0 ∧ readIsNamed a = true ∨ we = 1 ∧ writeIsNamed a = true := by
  rw [OpRow.accepts, Bool.and_eq_true, beq_iff_eq, beq_iff_eq, TxWord.format, TxWord.bits] at h
  obtain ⟨hformat, hbits⟩ := h
  obtain hsmp | ⟨hmask, hnamed, hmtch⟩ | ⟨hmask, hnamed, hmtch⟩ | ⟨hmask, hmtch⟩ := earlyRow_cases r hr
  · exact absurd (hsmp.symm.trans hformat) nofun
  · rw [hmtch, hmask, mask_named] at hbits
    obtain ⟨hwe, haddr⟩ := hbits
    exact .inl ⟨hwe, by rw [readIsNamed, haddr, List.contains_iff_mem.2 hnamed, Bool.true_or]⟩
  · rw [hmtch, hmask, mask_named] at hbits
    obtain ⟨hwe, haddr⟩ := hbits
    exact .inr ⟨hwe, by rw [writeIsNamed, haddr, List.contains_iff_mem.2 hnamed]⟩
  · rw [hmtch, hmask, mask_rxByte] at hbits
    obtain ⟨hwe, haddr⟩ := hbits
    exact .inl ⟨hwe, by rw [readIsNamed, isRxByteAddr, haddr]; exact Bool.or_true _⟩

/-- A word of no earlier row is left to the catch-alls. -/
theorem firstRow_of_no_earlyRow {t : TxWord} (h : ∀ r ∈ opcodeRows.take 24, r.accepts t = false) :
    firstRow t = (opcodeRows.drop 24).find? (·.accepts t) := by
  have hnone : (opcodeRows.take 24).find? (·.accepts t) = none :=
    List.find?_eq_none.2 fun r hr hacc => Bool.false_ne_true ((h r hr).symm.trans hacc)
  rw [firstRow, ← List.take_append_drop 24 opcodeRows, List.find?_append, hnone]
  rfl

theorem firstRow_unnamedRead {a : BusAddr} (h : readIsNamed a = false) (d : RegWord) :
    FirstRowIs (.bus (busWord 0 a d)) (.rdZero a d) := by
  rw [FirstRowIs, firstRow_of_no_earlyRow]
  · exact congrArg (Option.map OpRow.opcode) (List.find?_cons_of_pos (p := (·.accepts (.bus (busWord 0 a d))))
      (Laws.RowMatch.accepts_catchAll .rdZero 0 a d))
  · intro r hr
    by_contra hacc
    obtain ⟨-, hnamed⟩ | ⟨hwe, -⟩ := earlyRow_accepts hr (Bool.eq_true_of_not_eq_false hacc)
    · exact Bool.false_ne_true (h.symm.trans hnamed)
    · exact absurd hwe (by decide)

theorem firstRow_unnamedWrite {a : BusAddr} (h : writeIsNamed a = false) (d : RegWord) :
    FirstRowIs (.bus (busWord 1 a d)) (.wrIgnored a d) := by
  have hread : ¬ OpRow.accepts ⟨.rdZero, .bus, busWord 0 0 0, 0x10000000000⟩ (.bus (busWord 1 a d)) = true := by
    rw [OpRow.accepts, Bool.and_eq_true, beq_iff_eq, beq_iff_eq, TxWord.bits, mask_catchAll]
    exact fun hacc => absurd hacc.2 (by decide)
  rw [FirstRowIs, firstRow_of_no_earlyRow]
  · exact congrArg (Option.map OpRow.opcode)
      ((List.find?_cons_of_neg (p := (·.accepts (.bus (busWord 1 a d)))) hread).trans
      (List.find?_cons_of_pos (Laws.RowMatch.accepts_catchAll .wrIgnored 1 a d)))
  · intro r hr
    by_contra hacc
    obtain ⟨hwe, -⟩ | ⟨-, hnamed⟩ := earlyRow_accepts hr (Bool.eq_true_of_not_eq_false hacc)
    · exact absurd hwe (by decide)
    · exact Bool.false_ne_true (h.symm.trans hnamed)

theorem firstRow_rxByteAddr (k : BitVec 4) (d : RegWord) :
    FirstRowIs (.bus (busWord 0 (rxByteAddr k) d)) (.rdRxByte k d) := by
  have hrow : ∀ k, (firstRow (.bus (busWord 0 (rxByteAddr k) 0))).map OpRow.opcode = some .rdRxByte := by decide
  rw [FirstRowIs, firstRow_busWord]
  exact hrow k

theorem firstRow_decodeRead (a : BusAddr) (d : RegWord) : FirstRowIs (.bus (busWord 0 a d)) (decodeRead a d) :=
  have named {a i} := FirstRowIs.of_no_data (we := 0) (a := a) (i := i) d
  decodeRead_cases (P := fun a i => FirstRowIs (.bus (busWord 0 a d)) i) d (named rfl) (named rfl) (named rfl)
    (named rfl) (named rfl) (named rfl) (named rfl) (named rfl) (named rfl) (named rfl) (named rfl) (named rfl) (named rfl)
    (fun k => firstRow_rxByteAddr k d) (fun _ h => firstRow_unnamedRead h d) a

theorem firstRow_decodeWrite (a : BusAddr) (d : RegWord) : FirstRowIs (.bus (busWord 1 a d)) (decodeWrite a d) :=
  have named {a i} := FirstRowIs.of_no_data (we := 1) (a := a) (i := i) d
  decodeWrite_cases (P := fun a i => FirstRowIs (.bus (busWord 1 a d)) i) d (named rfl) (named rfl) (named rfl)
    (named rfl) (named rfl) (named rfl) (named rfl) (named rfl) (fun _ h => firstRow_unnamedWrite h d) a

theorem firstRow_decodeBus (w : BusWord) : FirstRowIs (.bus w) (decodeBus w) := by
  obtain ⟨a, d, rfl, heq⟩ | ⟨a, d, rfl, heq⟩ := decodeBus_cases w <;> rw [heq]
  · exact firstRow_decodeRead a d
  · exact firstRow_decodeWrite a d

theorem firstRow_smpHi (m : BitVec 15) : FirstRowIs (.smp (smpWord 0 m)) (.smpHi m) := by
  rw [FirstRowIs, firstRow]
  exact congrArg (Option.map OpRow.opcode)
    (List.find?_cons_of_pos (p := (·.accepts (.smp (smpWord 0 m)))) (Laws.RowMatch.accepts_smp .smpHi 0 m))

/-- The rows of SMP differ in the match of one mask, so a word of the second is none of the first. -/
theorem firstRow_smpLo (m : BitVec 15) : FirstRowIs (.smp (smpWord 1 m)) (.smpLo m) := by
  have hlo := Laws.RowMatch.accepts_smp .smpLo 1 m
  have hhi : ¬ OpRow.accepts ⟨.smpHi, .smp, 0x0000, 0x8000⟩ (.smp (smpWord 1 m)) = true := by
    rw [OpRow.accepts, Bool.and_eq_true, beq_iff_eq, beq_iff_eq] at hlo ⊢
    intro hacc
    exact absurd (hacc.2.symm.trans hlo.2) (by decide)
  exact congrArg (Option.map OpRow.opcode)
    ((List.find?_cons_of_neg (p := (·.accepts (.smp (smpWord 1 m)))) hhi).trans (List.find?_cons_of_pos hlo))

theorem firstRow_decodeSmp (w : SampleWord) : FirstRowIs (.smp w) (decodeSmp w) := by
  rw [← smpWord_fields w]
  cases smpSign w
  · exact decodeSmp_smpWord_hi _ ▸ firstRow_smpHi _
  · exact decodeSmp_smpWord_lo _ ▸ firstRow_smpLo _

/-! ## The addresses of RD_RX_BYTE and of the catch-alls (R95) -/

theorem opcode_decodeRead_eq_rdRxByte (a : BusAddr) (d : RegWord) :
    (decodeRead a d).opcode = .rdRxByte ↔ isRxByteAddr a = true := by
  constructor
  · intro h
    obtain ⟨-, henc⟩ := decodeRead_encodesTo a d
    generalize decodeRead a d = i at h henc
    cases i with
    | rdRxByte k d' =>
      obtain ⟨-, rfl, -⟩ := busWord_inj (TxWord.bus.inj henc)
      exact isRxByteAddr_rxByteAddr k
    | _ => cases h
  · intro h
    rw [← rxByteAddr_rxIndex a h, decodeRead_rxByteAddr]
    rfl

theorem opcode_decodeRead_eq_rdZero (a : BusAddr) (d : RegWord) :
    (decodeRead a d).opcode = .rdZero ↔ readIsNamed a = false := by
  constructor
  · intro h
    obtain ⟨hwf, henc⟩ := decodeRead_encodesTo a d
    generalize decodeRead a d = i at h henc hwf
    cases i with
    | rdZero a' d' =>
      obtain ⟨-, rfl, -⟩ := busWord_inj (TxWord.bus.inj henc)
      rwa [Instr.wf, Bool.not_eq_true'] at hwf
    | _ => cases h
  · intro h
    rw [decodeRead_of_not_named a d h]
    rfl

theorem opcode_decodeWrite_eq_wrIgnored (a : BusAddr) (d : RegWord) :
    (decodeWrite a d).opcode = .wrIgnored ↔ writeIsNamed a = false := by
  constructor
  · intro h
    obtain ⟨hwf, henc⟩ := decodeWrite_encodesTo a d
    generalize decodeWrite a d = i at h henc hwf
    cases i with
    | wrIgnored a' d' =>
      obtain ⟨-, rfl, -⟩ := busWord_inj (TxWord.bus.inj henc)
      rwa [Instr.wf, Bool.not_eq_true'] at hwf
    | _ => cases h
  · intro h
    rw [decodeWrite_of_not_named a d h]
    rfl

theorem isRxByteAddr_iff : ∀ a : BusAddr, isRxByteAddr a = true ↔ 0x40 ≤ a.toNat ∧ a.toNat ≤ 0x7C ∧ a.toNat % 4 = 0 := by
  decide

theorem readIsNamed_eq_false_iff : ∀ a : BusAddr,
    readIsNamed a = false ↔ a = 0x28 ∨ a = 0x38 ∨ a = 0x3C ∨ 0x80 ≤ a.toNat ∨ a.toNat % 4 ≠ 0 := by
  decide

theorem writeIsNamed_eq_false_iff : ∀ a : BusAddr,
    writeIsNamed a = false ↔ (0x1C ≤ a.toNat ∧ a ≠ 0x28) ∨ a.toNat % 4 ≠ 0 := by
  decide

/-- Settles O3: each format's decoder follows the rows, and the address chains end where the rows that name an address do. -/
theorem decoderFollowsOpcodeMap : Obligations.DecoderFollowsOpcodeMap := by
  refine ⟨fun t => ?_, fun a d => ?_, fun a d => ?_, fun a d => ?_⟩
  · cases t with
    | smp w => exact firstRow_decodeSmp w
    | bus w => exact firstRow_decodeBus w
    | pin w =>
      revert w
      decide
  · exact decodeBus_busWord 0 a d ▸ (opcode_decodeRead_eq_rdRxByte a d).trans (isRxByteAddr_iff a)
  · exact decodeBus_busWord 0 a d ▸ (opcode_decodeRead_eq_rdZero a d).trans (readIsNamed_eq_false_iff a)
  · exact decodeBus_busWord 1 a d ▸ (opcode_decodeWrite_eq_wrIgnored a d).trans (writeIsNamed_eq_false_iff a)

/-! ## The spec's own words, and the sign bit (R91, R98, R100) -/

/-- Settles O4: the decoder computes the transaction of each of the 24 words. -/
theorem specWordsDecode : Obligations.SpecWordsDecode :=
  ⟨rfl, rfl, rfl, rfl, rfl, rfl, rfl, rfl, rfl, rfl, rfl, rfl, rfl, rfl, rfl, rfl, rfl, rfl, rfl, rfl, rfl, rfl, rfl, rfl⟩

/-- Settles O10: a sample word acts through its polarity, which is the complement of bit 15. -/
theorem onlyTheSignBitMatters : Obligations.OnlyTheSignBitMatters := by
  intro w w' s h
  rw [exec_eq_execAt, exec_eq_execAt, execAt_decodeSmp, execAt_decodeSmp, polarity_eq, polarity_eq, h]

end Sys2Proof
end

section
/-! PROOFS. The recovery of a packet from its pulses (R99, R145, R411): what a stretch of samples does, composed along the
stream, from the preamble over the pulses, bits and bytes to the verdict on the whole packet. -/

open Sys2Proof Sys2Proof.Machine

namespace Sys2Proof.Machine

/-! ## What a stretch of samples does

`Leads` says it for whatever stands on the pins behind the stretch, so that two stretches compose. -/

/-- Taking the samples leads this hardware from every state of `P` to a state of `Q`, one cycle for each sample. -/
def Leads (ws : List SampleWord) (P Q : State → Prop) : Prop :=
  ∀ (s : State) (rest : List Cycle), P s → s.inputs = sampleCycles ws ++ rest →
    ∃ t, Host.Core.run Sys2Proof.core ws.length s = .next t ∧ Q t ∧ t.inputs = rest

theorem Leads.nil (P : State → Prop) : Leads [] P P := fun s _ hs hin => ⟨s, rfl, hs, hin⟩

theorem Leads.append {ws ws' : List SampleWord} {P Q R : State → Prop} (h : Leads ws P Q) (h' : Leads ws' Q R) :
    Leads (ws ++ ws') P R := by
  intro s rest hs hin
  obtain ⟨u, hrun, hu, hrest⟩ := h s (sampleCycles ws' ++ rest) hs
    (by rw [hin, sampleCycles, List.map_append, List.append_assoc]; rfl)
  obtain ⟨t, hrun', ht, hrest'⟩ := h' u rest hu hrest
  exact ⟨t, by rw [List.length_append, run_add hrun, hrun'], ht, hrest'⟩

/-- One sample is one sample step at the start of its cycle (R81). -/
theorem Leads.single {w : SampleWord} {P Q : State → Prop} (h : ∀ s, P s → Q (polarityStep (polarity w) s.beginCycle)) :
    Leads [w] P Q := by
  intro s rest hs hin
  exact ⟨_, run_sample hin 0, h s hs, by rw [polarityStep_inputs, State.beginCycle_inputs, hin]; rfl⟩

/-- Stretches one after another, each of which leads from its stage to the next. -/
theorem Leads.flatMap {α : Type} {f : α → List SampleWord} (xs : List α) (P : Nat → State → Prop)
    (h : ∀ (i : Nat) (hi : i < xs.length), Leads (f xs[i]) (P i) (P (i + 1))) :
    Leads (xs.flatMap f) (P 0) (P xs.length) := by
  induction xs generalizing P with
  | nil => exact Leads.nil _
  | cons x xs ih =>
    rw [List.flatMap_cons]
    exact (h 0 (Nat.zero_lt_succ _)).append
      (ih (fun i => P (i + 1)) fun i hi => h (i + 1) (Nat.succ_lt_succ hi))

/-- `n` equal samples. -/
theorem Leads.replicate {w : SampleWord} (n : Nat) (P : Nat → State → Prop)
    (h : ∀ i, i < n → Leads [w] (P i) (P (i + 1))) : Leads (List.replicate n w) (P 0) (P n) := by
  have hall := Leads.flatMap (f := fun x => [x]) (List.replicate n w) P fun i hi => by
    rw [List.getElem_replicate]
    rw [List.length_replicate] at hi
    exact h i hi
  rwa [List.flatMap_singleton', List.length_replicate] at hall

theorem polarity_highSample : polarity highSample = true := by decide

theorem polarity_lowSample : polarity lowSample = false := by decide

/-! ## The preamble (R120, R141) -/

section
variable (s₀ : State) (bs : List Byte)

/-- What a packet leaves alone until it is complete: configuration, counters and latch. -/
structure Kept (t : State) : Prop where
  cfg : t.cfg = s₀.cfg
  cnt : t.cnt = s₀.cnt
  rx : t.rx = s₀.rx

variable {s₀}

theorem Kept.beginCycle {t : State} (h : Kept s₀ t) : Kept s₀ t.beginCycle := ⟨h.cfg, h.cnt, h.rx⟩

/-- R106: a high sample completes no packet. -/
theorem Kept.high {t : State} (h : Kept s₀ t) (hen : t.cfg.en = true) : Kept s₀ (polarityStep true t) := by
  rw [polarityStep_true t hen]
  exact ⟨by simpa using h.cfg, by simpa using h.cnt, by simpa using h.rx⟩

variable (s₀)

/-- After `n` samples of the preamble. A high run may have been going on before it, so the run is at least as long. -/
structure Preamble (n : Nat) (t : State) : Prop where
  kept : Kept s₀ t
  high : 1 ≤ n → t.edge.primed = true ∧ t.edge.prevPol = true ∧ min n 0xFFFF ≤ t.edge.runLen.toNat
  synced : 1 ≤ n → s₀.cfg.syncMin.toNat ≤ n → t.dec = .acquired

variable {s₀}

theorem min_le_nextRun {n : Nat} {e : EdgeState}
    (h : 1 ≤ n → e.primed = true ∧ e.prevPol = true ∧ min n 0xFFFF ≤ e.runLen.toNat) :
    min (n + 1) 0xFFFF ≤ (nextRun true e).toNat := by
  rcases Nat.eq_zero_or_pos n with rfl | hn
  · exact nextRun_pos true e
  · obtain ⟨hp, hpol, hrun⟩ := h hn
    rw [nextRun_of_same hp hpol, satSucc_toNat]
    omega

/-- R120: the sample that brings the run to SYNC_MIN, and every one after it, acquires sync. -/
theorem Preamble.succ {n : Nat} {t : State} (hen : s₀.cfg.en = true) (h : Preamble s₀ n t) :
    Preamble s₀ (n + 1) (polarityStep true t) where
  kept := h.kept.high (h.kept.cfg ▸ hen)
  high _ := by
    rw [polarityStep_edge true t (h.kept.cfg ▸ hen)]
    exact ⟨rfl, rfl, min_le_nextRun h.high⟩
  synced _ hn := by
    have hrun := min_le_nextRun h.high
    have hmin := s₀.cfg.syncMin.isLt
    rw [polarityStep_true t (h.kept.cfg ▸ hen), syncStep_true, if_pos]
    rw [State.setEdge_cfg, h.kept.cfg]
    exact Nat.le_trans (by omega) hrun

theorem leads_preamble (hen : s₀.cfg.en = true) (h : Nat) :
    Leads (List.replicate h highSample) (Kept s₀) (Preamble s₀ h) := by
  have hall := Leads.replicate h (Preamble s₀) fun i _ => Leads.single (w := highSample) fun t ht => by
    rw [polarity_highSample]
    exact Preamble.succ hen ⟨ht.kept.beginCycle, ht.high, ht.synced⟩
  exact fun s rest hs hin => hall s rest ⟨hs, nofun, nofun⟩ hin

/-! ## Between two falling edges (R140, R146) -/

variable (s₀)

/-- Inside a packet, `n` samples into a run: the decoder is at `d`, and the bytes committed so far are those of the packet. -/
structure Receiving (d : DecoderState) (pol : Bool) (n : Nat) (t : State) : Prop where
  kept : Kept s₀ t
  run : InRun pol n t
  dec : t.dec = d
  bytes : ∀ i, i < d.byteIdx.toNat → t.buf.byte i = bs.getD i 0

/-- Inside a packet, in a low run of any length. -/
def Waiting (d : DecoderState) (t : State) : Prop := ∃ n, Receiving s₀ bs d false n t

variable {s₀ bs} {d : DecoderState}

theorem Receiving.beginCycle {pol : Bool} {n : Nat} {t : State} (h : Receiving s₀ bs d pol n t) :
    Receiving s₀ bs d pol n t.beginCycle :=
  ⟨h.kept.beginCycle, h.run.beginCycle, h.dec, h.bytes⟩

/-- R146: a low sample after a low one acts on the edge detector only. -/
theorem Receiving.low {n : Nat} {t : State} (h : Receiving s₀ bs d false n t) :
    Receiving s₀ bs d false (n + 1) (polarityStep false t) := by
  have hrun := h.run.succ
  rw [polarityStep_false_ignored t h.run.en (.inr fun ⟨_, hpol⟩ => absurd (h.run.prevPol.symm.trans hpol) nofun)]
    at hrun ⊢
  exact ⟨⟨h.kept.cfg, h.kept.cnt, h.kept.rx⟩, hrun, h.dec, h.bytes⟩

/-- R120: a high sample short of SYNC_MIN acts on the edge detector only. -/
theorem polarityStep_true_of_short {t : State} {n : Nat} (hen : t.cfg.en = true)
    (hrun : InRun true n (polarityStep true t)) (hn : n < t.cfg.syncMin.toNat) :
    polarityStep true t = t.setEdge (edgeAfter true t.edge) := by
  have hlen := hrun.runLen
  rw [polarityStep_edge true t hen] at hlen
  rw [polarityStep_true t hen, syncStep_true, if_neg]
  rw [State.setEdge_cfg, State.setEdge_edge, hlen]
  omega

theorem Receiving.high {pol : Bool} {m n : Nat} {t : State} (h : Receiving s₀ bs d pol m t)
    (hrun : InRun true n (polarityStep true t)) (hn : n < s₀.cfg.syncMin.toNat) :
    Receiving s₀ bs d true n (polarityStep true t) := by
  have heq := polarityStep_true_of_short h.run.en hrun (h.kept.cfg ▸ hn)
  rw [heq] at hrun ⊢
  exact ⟨⟨h.kept.cfg, h.kept.cnt, h.kept.rx⟩, hrun, h.dec, h.bytes⟩

theorem leads_low (k : Nat) : Leads (List.replicate k lowSample) (Waiting s₀ bs d) (Waiting s₀ bs d) :=
  Leads.replicate k (fun _ => Waiting s₀ bs d) fun _ _ => Leads.single fun t ⟨n, ht⟩ => by
    rw [polarity_lowSample]
    exact ⟨n + 1, ht.beginCycle.low⟩

/-- The high run of a pulse of `w + 1` samples, short of SYNC_MIN. -/
theorem leads_high (w : Nat) (hw : w + 1 < s₀.cfg.syncMin.toNat) :
    Leads (List.replicate (w + 1) highSample) (Waiting s₀ bs d) (Receiving s₀ bs d true (w + 1)) := by
  have hfirst : Leads [highSample] (Waiting s₀ bs d) (Receiving s₀ bs d true 1) := Leads.single fun t ⟨n, ht⟩ => by
    rw [polarity_highSample]
    exact ht.beginCycle.high (InRun.start ht.run.en fun _ => ht.run.prevPol) (by omega)
  refine hfirst.append ?_
  rw [Nat.add_comm]
  refine Leads.replicate w (fun i => Receiving s₀ bs d true (1 + i)) fun i hi => Leads.single fun t ht => ?_
  rw [polarity_highSample]
  exact ht.beginCycle.high ht.beginCycle.run.succ (by omega)

theorem pulse_succ (w l : Nat) : pulse w (l + 1) = pulse w 1 ++ List.replicate l lowSample := by
  rw [pulse, pulse, List.append_assoc, List.replicate_succ]
  rfl

/-! ## Bits and bytes (R142 to R145) -/

/-- Synchronised, past the preamble's edge, with `k` bits in the accumulator and `j` bytes committed. -/
def DecoderState.inPacket (j k : Nat) (acc : Byte) : DecoderState :=
  { sync := true, firstEdge := false, bitCnt := BitVec.ofNat 4 k, acc := acc, byteIdx := BitVec.ofNat 5 j }

theorem DecoderState.inPacket_byteIdx_toNat {j : Nat} (hj : j < 32) (k : Nat) (acc : Byte) :
    (DecoderState.inPacket j k acc).byteIdx.toNat = j :=
  Nat.mod_eq_of_lt hj

/-- R144: the index after a byte commit. -/
theorem DecoderState.inPacket_byteIdx_succ (j k k' : Nat) (acc acc' : Byte) :
    (DecoderState.inPacket j k acc).byteIdx + 1 = (DecoderState.inPacket (j + 1) k' acc').byteIdx :=
  (BitVec.ofNat_add j 1).symm

/-- R141: the falling edge after the preamble is discarded, and the first byte can begin. -/
theorem waiting_of_preamble {h : Nat} {t : State} (hen : s₀.cfg.en = true) (hpos : 1 ≤ h)
    (hh : s₀.cfg.syncMin.toNat ≤ h) (ht : Preamble s₀ h t) :
    Waiting s₀ bs (.inPacket 0 0 0) (polarityStep false t) := by
  obtain ⟨hprimed, hpol, -⟩ := ht.high hpos
  have hdec := ht.synced hpos hh
  have hent : t.cfg.en = true := ht.kept.cfg ▸ hen
  have hrun : InRun false 1 (polarityStep false t) := InRun.start hent fun _ => hpol
  rw [polarityStep_false_first t hent (by rw [hdec]; rfl) (by rw [hdec]; rfl) ⟨hprimed, hpol⟩] at hrun ⊢
  exact ⟨1, ⟨ht.kept.cfg, ht.kept.cnt, ht.kept.rx⟩, hrun, by rw [State.setDec_dec, hdec]; rfl, nofun⟩

theorem leads_sync {h l : Nat} (hen : s₀.cfg.en = true) (hpos : 1 ≤ h) (hh : s₀.cfg.syncMin.toNat ≤ h) (hl : 1 ≤ l) :
    Leads (pulse h l) (Kept s₀) (Waiting s₀ bs (.inPacket 0 0 0)) := by
  obtain ⟨l, rfl⟩ := Nat.exists_eq_add_of_le' hl
  rw [pulse_succ]
  refine ((leads_preamble hen h).append (Leads.single fun t ht => ?_)).append (leads_low l)
  rw [polarity_lowSample]
  exact waiting_of_preamble hen hpos hh ⟨ht.kept.beginCycle, ht.high, ht.synced⟩

variable (s₀) in
/-- The pulse widths of R99 under a configuration. -/
structure PulseWidths (w0 w1 : Nat) : Prop where
  pos : 1 ≤ w0
  zero : w0 < s₀.cfg.bitThresh.toNat
  one : s₀.cfg.bitThresh.toNat ≤ w1
  short : w1 < s₀.cfg.syncMin.toNat

/-- The high width of a bit (R99). -/
def bitWidth (w0 w1 : Nat) (b : Bool) : Nat := if b then w1 else w0

variable {w0 w1 : Nat}

theorem PulseWidths.bitWidth_pos (h : PulseWidths s₀ w0 w1) (b : Bool) : 1 ≤ bitWidth w0 w1 b := by
  obtain ⟨hpos, hzero, hone, -⟩ := h
  cases b
  · exact hpos
  · exact Nat.le_trans (by omega) hone

theorem PulseWidths.bitWidth_lt (h : PulseWidths s₀ w0 w1) (b : Bool) : bitWidth w0 w1 b < s₀.cfg.syncMin.toNat := by
  obtain ⟨-, hzero, hone, hshort⟩ := h
  cases b
  · exact Nat.lt_trans (Nat.lt_of_lt_of_le hzero hone) hshort
  · exact hshort

/-- R142: the classifier gives back the bit of a pulse. -/
theorem PulseWidths.classify_bitWidth (h : PulseWidths s₀ w0 w1) (b : Bool) {r : BitVec 16}
    (hr : r.toNat = bitWidth w0 w1 b) : classify r s₀.cfg.bitThresh = b := by
  rw [classify, hr]
  cases b
  · exact decide_eq_false (Nat.not_le.2 h.zero)
  · exact decide_eq_true h.one

/-- R142: the falling edge at the end of a bit's pulse gives the assembler that bit, in the low run it starts. -/
theorem Receiving.dataEdge (hw : PulseWidths s₀ w0 w1) {b : Bool} {t : State}
    (h : Receiving s₀ bs d true (bitWidth w0 w1 b) t) (hsync : d.sync = true) (hfirst : d.firstEdge = false) :
    ∃ u, Waiting s₀ bs d u ∧ polarityStep false t = takeBit b u := by
  have hlt := hw.bitWidth_lt b
  have hmin := s₀.cfg.syncMin.isLt
  have hlen : t.edge.runLen.toNat = bitWidth w0 w1 b := by rw [h.run.runLen]; omega
  refine ⟨t.setEdge (edgeAfter false t.edge),
    ⟨1, ⟨h.kept.cfg, h.kept.cnt, h.kept.rx⟩, ⟨h.run.en, rfl, rfl, ?_⟩, h.dec, h.bytes⟩, ?_⟩
  · rw [State.setEdge_edge, edgeAfter, nextRun_of_new fun _ => h.run.prevPol]
    rfl
  · rw [polarityStep_false_data t h.run.en (h.dec ▸ hsync) (h.dec ▸ hfirst) ⟨h.run.primed, h.run.prevPol⟩, h.kept.cfg,
      hw.classify_bitWidth b hlen]

/-- A bit's pulse up to its falling edge does what the bit does. -/
theorem leads_bit (hw : PulseWidths s₀ w0 w1) (b : Bool) {Q : State → Prop} (hsync : d.sync = true)
    (hfirst : d.firstEdge = false) (h : ∀ u, Waiting s₀ bs d u → Q (takeBit b u)) :
    Leads (pulse (bitWidth w0 w1 b) 1) (Waiting s₀ bs d) Q := by
  obtain ⟨w, hwidth⟩ := Nat.exists_eq_add_of_le' (hw.bitWidth_pos b)
  have hhigh := leads_high (s₀ := s₀) (bs := bs) (d := d) w (hwidth ▸ hw.bitWidth_lt b)
  rw [← hwidth] at hhigh
  refine hhigh.append (Leads.single fun t ht => ?_)
  obtain ⟨u, hu, heq⟩ := ht.beginCycle.dataEdge hw hsync hfirst
  rw [polarity_lowSample, heq]
  exact h u hu

/-- R143: the bits above bit `k` and then bit `k` are the bits from bit `k` up. -/
theorem shiftIn_shiftRight (b : Byte) (k : Nat) : shiftIn (b >>> (k + 1)) (b.getLsbD k) = b >>> k := by
  apply BitVec.eq_of_getLsbD_eq
  intro i hi
  rw [shiftIn, BitVec.getLsbD_append, BitVec.getLsbD_extractLsb', BitVec.getLsbD_ushiftRight, BitVec.getLsbD_ushiftRight]
  rcases Nat.eq_zero_or_pos i with rfl | hpos
  · simp
  · rw [if_neg (by omega), decide_eq_true (show i - 1 < 7 by omega), Bool.true_and]
    congr 1
    omega

/-- R143: one of the first seven bits of a byte. -/
theorem Waiting.shiftBit {b : Byte} {j k : Nat} {u : State} (hk : k < 7)
    (h : Waiting s₀ bs (.inPacket j k (b >>> (8 - k))) u) :
    Waiting s₀ bs (.inPacket j (k + 1) (b >>> (8 - (k + 1)))) (takeBit (b.getLsbD (7 - k)) u) := by
  obtain ⟨n, h⟩ := h
  have hcnt : u.dec.bitCnt ≠ 7 := by
    rw [h.dec]
    exact (by decide : ∀ k, k < 7 → BitVec.ofNat 4 k ≠ 7) k hk
  have hacc : shiftIn (b >>> (8 - k)) (b.getLsbD (7 - k)) = b >>> (8 - (k + 1)) := by
    have hk8 : 8 - k = 7 - k + 1 := by omega
    have hk7 : 8 - (k + 1) = 7 - k := by omega
    rw [hk8, hk7, shiftIn_shiftRight]
  rw [takeBit_of_ne _ _ hcnt]
  refine ⟨n, ⟨h.kept.cfg, h.kept.cnt, h.kept.rx⟩, ⟨h.run.en, h.run.primed, h.run.prevPol, h.run.runLen⟩, ?_, h.bytes⟩
  rw [State.setDec_dec, h.dec, DecoderState.inPacket, DecoderState.inPacket, hacc, BitVec.ofNat_add]
  rfl

/-- R144: the eighth bit of byte `j` makes the packet's byte, and the buffer then holds the packet up to it. -/
theorem Waiting.bufAfterBit_byte {j : Nat} {u : State} (hj : j < 16)
    (h : Waiting s₀ bs (.inPacket j 7 (bs.getD j 0 >>> 1)) u) (i : Nat) (hi : i < j + 1) :
    (bufAfterBit ((bs.getD j 0).getLsbD 0) u).byte i = bs.getD i 0 := by
  obtain ⟨n, h⟩ := h
  have hidx := DecoderState.inPacket_byteIdx_toNat (Nat.lt_trans hj (by decide)) 7 (bs.getD j 0 >>> 1)
  have hbyte : shiftIn (bs.getD j 0 >>> 1) ((bs.getD j 0).getLsbD 0) = bs.getD j 0 := by
    rw [shiftIn_shiftRight, BitVec.ushiftRight_zero]
  rw [bufAfterBit, h.dec, hidx, DecoderState.inPacket, hbyte]
  rcases Nat.lt_succ_iff_lt_or_eq.1 hi with hlt | rfl
  · rw [Buffer.byte_put_of_ne _ _ _ _ (Nat.ne_of_lt hlt)]
    exact h.bytes i (by rwa [hidx])
  · rw [Buffer.byte_put_self _ _ _ hj]

/-- R144: the last bit of a byte that is not the last. -/
theorem Waiting.commitByte {j : Nat} {u : State} (hj : j < 16) (hl : j + 1 < s₀.cfg.pktLen.toNat)
    (h : Waiting s₀ bs (.inPacket j 7 (bs.getD j 0 >>> 1)) u) :
    Waiting s₀ bs (.inPacket (j + 1) 0 0) (takeBit ((bs.getD j 0).getLsbD 0) u) := by
  have hbuf := h.bufAfterBit_byte hj
  obtain ⟨n, h⟩ := h
  have hidx : u.dec.byteIdx + 1 = (DecoderState.inPacket (j + 1) 0 0).byteIdx := by
    rw [h.dec, DecoderState.inPacket_byteIdx_succ]
  have hsucc := DecoderState.inPacket_byteIdx_toNat (j := j + 1) (by omega) 0 0
  have hne : u.dec.byteIdx + 1 ≠ u.cfg.pktLen := by
    rw [hidx, h.kept.cfg]
    intro heq
    rw [← heq, hsucc] at hl
    exact Nat.lt_irrefl _ hl
  have hcnt : u.dec.bitCnt = 7 := by rw [h.dec]; rfl
  rw [takeBit_commit _ _ hcnt hne]
  refine ⟨n, ⟨h.kept.cfg, h.kept.cnt, h.kept.rx⟩, ⟨h.run.en, h.run.primed, h.run.prevPol, h.run.runLen⟩, ?_,
    fun i hi => hbuf i (hsucc ▸ hi)⟩
  rw [State.setDec_dec, hidx, h.dec]
  rfl

variable (s₀ bs) in
/-- R145: Validate has run on the packet's bytes, with the configuration, counters and latch from before the packet. -/
def Validated (t : State) : Prop :=
  ∃ u : State, Kept s₀ u ∧ (∀ i, i < bs.length → u.buf.byte i = bs.getD i 0) ∧ t = (validate u).setDec .reset

/-- R145: the last bit of the last byte. -/
theorem Waiting.complete {j : Nat} {u : State} (hj : j < 16) (hlen : bs.length = s₀.cfg.pktLen.toNat)
    (hl : j + 1 = bs.length) (h : Waiting s₀ bs (.inPacket j 7 (bs.getD j 0 >>> 1)) u) :
    Validated s₀ bs (takeBit ((bs.getD j 0).getLsbD 0) u) := by
  have hbuf := h.bufAfterBit_byte hj
  obtain ⟨n, h⟩ := h
  have hidx : u.dec.byteIdx + 1 = u.cfg.pktLen := by
    rw [h.dec, h.kept.cfg, DecoderState.inPacket_byteIdx_succ j 7 0 _ 0]
    apply BitVec.eq_of_toNat_eq
    rw [DecoderState.inPacket_byteIdx_toNat (by omega), hl, hlen]
  have hcnt : u.dec.bitCnt = 7 := by rw [h.dec]; rfl
  rw [takeBit_complete _ _ hcnt hidx]
  exact ⟨u.setBuf (bufAfterBit ((bs.getD j 0).getLsbD 0) u), ⟨h.kept.cfg, h.kept.cnt, h.kept.rx⟩,
    fun i hi => hbuf i (hl ▸ hi), rfl⟩

/-! ## The whole packet (R99) -/

/-- The samples of a byte up to the falling edge that gives its last bit. -/
def byteToLastEdge (w0 w1 l : Nat) (b : Byte) : List SampleWord :=
  [7, 6, 5, 4, 3, 2, 1].flatMap (fun k => pulse (bitWidth w0 w1 (b.getLsbD k)) l) ++
    pulse (bitWidth w0 w1 (b.getLsbD 0)) 1

theorem byteSamples_succ (w0 w1 l : Nat) (b : Byte) :
    byteSamples w0 w1 (l + 1) b = byteToLastEdge w0 w1 (l + 1) b ++ List.replicate l lowSample := by
  rw [byteToLastEdge, List.append_assoc, ← pulse_succ]
  simp [byteSamples, bitWidth]

/-- R143: a byte up to its last falling edge does what its last bit does. -/
theorem leads_byteToLastEdge (hw : PulseWidths s₀ w0 w1) (b : Byte) (j l : Nat) {Q : State → Prop}
    (h : ∀ u, Waiting s₀ bs (.inPacket j 7 (b >>> 1)) u → Q (takeBit (b.getLsbD 0) u)) :
    Leads (byteToLastEdge w0 w1 (l + 1) b) (Waiting s₀ bs (.inPacket j 0 0)) Q := by
  have hstart : b >>> 8 = 0 := BitVec.ushiftRight_eq_zero (by decide)
  have hbits := Leads.flatMap (f := fun k => pulse (bitWidth w0 w1 (b.getLsbD k)) (l + 1)) [7, 6, 5, 4, 3, 2, 1]
    (fun k => Waiting s₀ bs (.inPacket j k (b >>> (8 - k)))) fun k hk => by
      have hbit : [7, 6, 5, 4, 3, 2, 1][k] = 7 - k :=
        (by decide : ∀ k (hk : k < 7), [7, 6, 5, 4, 3, 2, 1][k] = 7 - k) k hk
      rw [hbit, pulse_succ]
      exact (leads_bit hw _ rfl rfl fun u hu => hu.shiftBit hk).append (leads_low l)
  simp only [Nat.sub_zero, hstart] at hbits
  exact hbits.append (leads_bit hw _ rfl rfl h)

/-- R144: the bytes before the last, one after another. -/
theorem leads_bytes (hw : PulseWidths s₀ w0 w1) (l : Nat) {init : List Byte} {b : Byte} (hbs : bs = init ++ [b])
    (hlen : bs.length = s₀.cfg.pktLen.toNat) (hcap : bs.length ≤ 16) :
    Leads (init.flatMap (byteSamples w0 w1 (l + 1))) (Waiting s₀ bs (.inPacket 0 0 0))
      (Waiting s₀ bs (.inPacket init.length 0 0)) := by
  have hinit : bs.length = init.length + 1 := by rw [hbs, List.length_append, List.length_singleton]
  refine Leads.flatMap init (fun j => Waiting s₀ bs (.inPacket j 0 0)) fun j hj => ?_
  have hbyte : init[j] = bs.getD j 0 := by
    rw [hbs, List.getD_append _ _ _ _ hj, List.getD_eq_getElem _ _ hj]
  rw [hbyte, byteSamples_succ]
  exact (leads_byteToLastEdge hw _ j l fun u hu => hu.commitByte (by omega) (by omega)).append (leads_low l)

/-- All samples of a packet but those that follow its last falling edge. -/
theorem packetSamples_take (h lp w0 w1 l : Nat) (init : List Byte) (b : Byte) :
    (packetSamples h lp w0 w1 (l + 1) (init ++ [b])).take ((packetSamples h lp w0 w1 (l + 1) (init ++ [b])).length - l) =
      pulse h lp ++ init.flatMap (byteSamples w0 w1 (l + 1)) ++ byteToLastEdge w0 w1 (l + 1) b := by
  have hsplit : packetSamples h lp w0 w1 (l + 1) (init ++ [b]) =
      pulse h lp ++ init.flatMap (byteSamples w0 w1 (l + 1)) ++ byteToLastEdge w0 w1 (l + 1) b ++
        List.replicate l lowSample := by
    rw [packetSamples, List.flatMap_append, List.flatMap_singleton, byteSamples_succ]
    simp only [List.append_assoc]
  rw [hsplit]
  exact List.take_left' (by simp only [List.length_append, List.length_replicate, Nat.add_sub_cancel])

/-- R99, R145: the samples of a packet up to its last falling edge run Validate on its bytes. -/
theorem leads_packet (hw : PulseWidths s₀ w0 w1) {h lp : Nat} (l : Nat) (hlen : bs.length = s₀.cfg.pktLen.toNat)
    (hne : bs ≠ []) (hcap : bs.length ≤ 16) (hen : s₀.cfg.en = true) (hh : s₀.cfg.syncMin.toNat ≤ h) (hlp : 1 ≤ lp) :
    Leads ((packetSamples h lp w0 w1 (l + 1) bs).take ((packetSamples h lp w0 w1 (l + 1) bs).length - l))
      (Kept s₀) (Validated s₀ bs) := by
  obtain ⟨init, b, hbs⟩ := (List.eq_nil_or_concat' bs).resolve_left hne
  have hinit : bs.length = init.length + 1 := by rw [hbs, List.length_append, List.length_singleton]
  have hlast : b = bs.getD init.length 0 := by
    rw [hbs, List.getD_append_right _ _ _ _ (Nat.le_refl _), Nat.sub_self, List.getD_cons_zero]
  have hpos : 1 ≤ h := by
    have hlt := hw.bitWidth_lt true
    omega
  have hbytes := (leads_sync hen hpos hh hlp).append (leads_bytes hw l hbs hlen hcap)
  have hbyte := leads_byteToLastEdge hw (bs.getD init.length 0) init.length l (Q := Validated s₀ bs)
    fun u hu => hu.complete (by omega) hlen hinit.symm
  rw [← hlast] at hbyte
  have hall := hbytes.append hbyte
  rwa [← packetSamples_take, ← hbs] at hall

/-! ## The verdict (R161 to R168) -/

theorem byteSum_eq_foldl {b : Buffer} {n : Nat} (hb : ∀ i, i < n → b.byte i = bs.getD i 0) (hn : n ≤ bs.length) :
    byteSum b n = (bs.take n).foldl (· + ·) 0 := by
  induction n with
  | zero => rfl
  | succ n ih =>
    rw [byteSum, ih (fun i hi => hb i (by omega)) (by omega), hb n (Nat.lt_succ_self n),
      List.take_succ_eq_append_getElem (by omega), List.foldl_append, List.getD_eq_getElem _ _ (by omega)]
    rfl

/-- R163: the filter's bytes, from its top. -/
theorem filterBytes_append (a b c : Byte) :
    filterByte0 (a ++ b ++ c) = a ∧ filterByte1 (a ++ b ++ c) = b ∧ filterByte2 (a ++ b ++ c) = c := by
  refine ⟨?_, ?_, ?_⟩ <;> apply BitVec.eq_of_getLsbD_eq <;> intro i hi
  · rw [filterByte0, BitVec.getLsbD_extractLsb', BitVec.getLsbD_append, BitVec.getLsbD_append, if_neg (by omega),
      if_neg (by omega), decide_eq_true hi, Bool.true_and]
    congr 1
    omega
  · rw [filterByte1, BitVec.getLsbD_extractLsb', BitVec.getLsbD_append, BitVec.getLsbD_append, if_neg (by omega),
      if_pos (by omega), decide_eq_true hi, Bool.true_and]
    congr 1
    omega
  · rw [filterByte2, BitVec.getLsbD_extractLsb', BitVec.getLsbD_append, if_pos (by omega), decide_eq_true hi,
      Bool.true_and, Nat.zero_add]

theorem addrMatch_append (b : Buffer) : addrMatch b (b.byte 0 ++ b.byte 1 ++ b.byte 2) = true := by
  obtain ⟨h0, h1, h2⟩ := filterBytes_append (b.byte 0) (b.byte 1) (b.byte 2)
  rw [addrMatch, h0, h1, h2]
  simp only [beq_self_eq_true, Bool.and_self]

/-- R90: byte `i` of the packed bytes. -/
theorem extractLsb'_packBytes {cap : Nat} (b : Buffer cap) {n i : Nat} (hi : i < n) :
    (packBytes b n).extractLsb' (8 * i) 8 = b.byte i := by
  apply BitVec.eq_of_getLsbD_eq
  intro k hk
  rw [BitVec.getLsbD_extractLsb', decide_eq_true hk, Bool.true_and, getLsbD_packBytes b n i k hi hk]

/-- R168: the frame carries the packet's bytes. -/
theorem frameOf_data_byte (v : Verdict) (b : Buffer) (l : BitVec 5) {i : Nat} (hi : i < l.toNat) (hcap : i < 16) :
    (frameOf v b l).data.extractLsb' (8 * i) 8 = b.byte i := by
  rw [frameOf, extractLsb'_packBytes _ hcap, Buffer.byte_first, if_pos hi]

section
variable {u : State} (hu : ∀ i, i < bs.length → u.buf.byte i = bs.getD i 0) (hlen : bs.length = u.cfg.pktLen.toNat)
  (hmin : 4 ≤ bs.length)
include hu hlen hmin

/-- R161, R162: a last byte that is the sum of the others plus the offset passes. -/
theorem packetOk_of_sum
    (hsum : bs.getD (bs.length - 1) 0 = (bs.take (bs.length - 1)).foldl (· + ·) 0 + u.cfg.chkOffset) :
    packetOk u = true := by
  rw [packetOk, chkOk, beq_iff_eq, ← hlen, hu _ (by omega), hsum,
    byteSum_eq_foldl (fun i hi => hu i (by omega)) (Nat.sub_le _ _)]

/-- R163, R164: with the filter off or met, such a packet is accepted. -/
theorem packetAccepted_of_sum
    (hsum : bs.getD (bs.length - 1) 0 = (bs.take (bs.length - 1)).foldl (· + ·) 0 + u.cfg.chkOffset)
    (haddr : u.cfg.afEn = false ∨ bs.getD 0 0 ++ bs.getD 1 0 ++ bs.getD 2 0 = u.cfg.addrFilter) :
    packetAccepted u = true := by
  rw [packetAccepted, packetOk_of_sum hu hlen hmin hsum, accepts, Bool.true_and]
  rcases haddr with hoff | hmatch
  · rw [hoff]
    rfl
  · rw [← hmatch, ← hu 0 (by omega), ← hu 1 (by omega), ← hu 2 (by omega), addrMatch_append, Bool.or_true]

end

/-- R167: an accepted packet that meets an empty latch is copied. -/
theorem latchPacket_of_empty (b : Buffer) (l : BitVec 5) {r : RxLatch} (h : r.full = false) :
    latchPacket true b l r = { bytes := b.first l.toNat, len := l, full := true } := by
  simp [latchPacket, h]

end

/-- Settles O47: the stream up to the last falling edge runs Validate on the bytes that were encoded. -/
theorem packetRecovery : Obligations.PacketRecovery := by
  intro bs h lp w0 w1 l s hen hlen hmin hcap hw0 hzero hone hshort hh hlp hl samples fed
  obtain ⟨l, rfl⟩ := Nat.exists_eq_add_of_le' hl
  have hne : bs ≠ [] := List.ne_nil_of_length_pos (by omega)
  have hlead := leads_packet (s₀ := s) ⟨hw0, hzero, hone, hshort⟩ l hlen hne hcap hen hh hlp
  obtain ⟨t, hrun, ⟨u, hu, hbytes, rfl⟩, hrest⟩ := hlead (s.feeding fed) s.inputs ⟨rfl, rfl, rfl⟩ rfl
  have hulen : bs.length = u.cfg.pktLen.toNat := hu.cfg ▸ hlen
  refine ⟨_, hrun, hrest, ?_, rfl, rfl, ?_, fun i hi => ?_, fun hsum haddr hempty => ?_⟩
  · rw [State.setDec_cnt, validate_cnt, hu.cnt]
    rfl
  · rw [State.setDec_frm, validate_frm, hu.cfg]
    rfl
  · rw [State.setDec_frm, validate_frm, frameOf_data_byte _ _ _ (hulen ▸ hi) (by omega), hbytes i hi]
  · have hacc : packetAccepted u = true := packetAccepted_of_sum hbytes hulen hmin (hu.cfg ▸ hsum) (hu.cfg ▸ haddr)
    have hrx : ((validate u).setDec .reset).rx = { bytes := u.buf.first bs.length, len := s.cfg.pktLen, full := true } := by
      rw [State.setDec_rx, validate_rx, hacc, latchPacket_of_empty _ _ (hu.rx ▸ hempty), ← hulen, hu.cfg]
    rw [hrx]
    refine ⟨?_, rfl, rfl, fun i hi => ?_⟩
    · rw [State.setDec_frm, validate_frm, hacc]
      rfl
    · rw [Buffer.byte_first, if_pos hi, hbytes i hi]

end Sys2Proof.Machine
end

section
/-! PROOFS. One sample at the edge detector (R101, R102, R106, R107, R146): a sample that is lost, a high sample, and a low
sample that the decoder does not see. -/

open Sys2Proof Sys2Proof.Machine

namespace Sys2Proof.Machine

/-! ## The two sample instructions as sample steps -/

theorem exec_decodeSmp (w : SampleWord) (s : State) : exec (decodeSmp w) s = .next (polarityStep (polarity w) s) :=
  (exec_eq_execAt _ s).trans (execAt_decodeSmp w s)

theorem exec_smpHi (m : BitVec 15) (s : State) : exec (.smpHi m) s = .next (polarityStep true s) :=
  execSmpHi_eq m s

theorem exec_smpLo (m : BitVec 15) (s : State) : exec (.smpLo m) s = .next (polarityStep false s) :=
  execSmpLo_eq m s

/-- R91, R106: a word that has bit 15 clear is SMP_HI with its magnitude bits. -/
theorem decodeSmp_of_bit15_clear {w : SampleWord} (h : w &&& 0x8000 = 0x0000) : decodeSmp w = .smpHi (w.setWidth 15) := by
  have hmask : (0x8000 : SampleWord).getLsbD 15 = true := by decide
  have hsign : smpSign w = false := calc
    smpSign w = (w &&& 0x8000).getLsbD 15 := by rw [smpSign, BitVec.getLsbD_and, hmask, Bool.and_true]
    _ = false := by rw [h]; rfl
  rw [decodeSmp, hsign, BitVec.setWidth_eq_extractLsb' (by decide)]
  rfl

/-! ## The run after a sample -/

/-- R102, R104: the run length after a sample as a number. -/
theorem nextRun_toNat (pol : Bool) (e : EdgeState) :
    (nextRun pol e).toNat = if e.primed = true ∧ e.prevPol = pol then min (e.runLen.toNat + 1) 0xFFFF else 1 := by
  split
  next h => rw [nextRun_of_same h.1 h.2, satSucc_toNat]
  next h =>
    rw [nextRun_of_new fun hp => Bool.eq_not.2 fun hpol => h ⟨hp, hpol⟩]
    rfl

/-- R102: a low sample after none, or after a high one, starts a low run. -/
theorem edgeAfter_false_of_new {e : EdgeState} (h : e.primed = true → e.prevPol = true) :
    edgeAfter false e = lowRunStarted := by
  rw [edgeAfter, nextRun_of_new h]
  rfl

/-! ## The statements -/

/-- Settles O9: a sample is a sample step, and that step does nothing in a disabled state. -/
theorem disabledSampleIsLost : Obligations.DisabledSampleIsLost := by
  intro w s hen
  rw [exec_decodeSmp, polarityStep_disabled _ s hen]

/-- Settles O11: a high sample is EdgeStep and then SyncStep, which compares the run after the sample with SYNC_MIN. -/
theorem highSampleStep : Obligations.HighSampleStep := by
  intro w s hbit
  refine ⟨decodeSmp_of_bit15_clear hbit, fun hen => ?_, fun hen => ⟨nextRun true s.edge, nextRun_toNat true s.edge, ?_⟩⟩
  · rw [exec_smpHi, polarityStep_disabled true s hen]
  rw [exec_smpHi, polarityStep_true s hen, syncStep_true]
  constructor
  · intro hreached
    exact congrArg _ (if_pos hreached)
  · intro hshort
    exact congrArg _ (if_neg (Nat.not_le_of_lt hshort))

/-- Settles O12: in each case SyncStep and BitStep have no effect, and the edge detector starts a low run or counts on. -/
theorem lowSampleWithoutEffectOnDecoder : Obligations.LowSampleWithoutEffectOnDecoder := by
  intro m s hen
  rw [exec_smpLo]
  refine ⟨fun hnone => ?first, fun _ hhigh hsync => ?unsynced, fun hprimed hlow => ?lowRun⟩
  case first =>
    have hnew : ¬ s.edge.primed = true := by simp [hnone]
    rw [polarityStep_false_ignored s hen (.inr fun h => hnew h.1), edgeAfter_false_of_new fun h => absurd h hnew]
    rfl
  case unsynced =>
    rw [polarityStep_false_ignored s hen (.inl hsync), edgeAfter_false_of_new fun _ => hhigh]
    rfl
  case lowRun =>
    have hsame : ¬ s.edge.prevPol = true := by simp [hlow]
    refine ⟨nextRun false s.edge, ?_, ?_⟩
    · rw [nextRun_of_same hprimed hlow, satSucc_toNat]
    · rw [polarityStep_false_ignored s hen (.inr fun h => hsame h.2)]
      rfl

end Sys2Proof.Machine
end

section
/-! PROOFS. Sync acquisition at the corners of R120: the further samples of a sync pulse (R121), and SYNC_MIN 0 and 1, with
which every high sample acquires sync and no bit is ever recovered (R124 item 1). -/

open Sys2Proof Sys2Proof.Machine

namespace Sys2Proof.Machine

variable {cap : Nat}

/-! ## Acquisition and what comes after it (R120, R121) -/

/-- R120: a high sample that brings the run to SYNC_MIN acquires sync. -/
theorem polarityStep_true_dec_of_reached {s : State cap} (hen : s.cfg.en = true)
    (hrun : s.cfg.syncMin.toNat ≤ (nextRun true s.edge).toNat) : (polarityStep true s).dec = .acquired := by
  have hreached : (s.setEdge (edgeAfter true s.edge)).cfg.syncMin.toNat ≤
      (s.setEdge (edgeAfter true s.edge)).edge.runLen.toNat := hrun
  rw [polarityStep_true s hen, syncStep_true, if_pos hreached]

/-- R121: with sync just acquired, SyncStep only repeats its writes, and no packet is in progress that would set RESYNC. -/
theorem syncStep_true_of_acquired {s : State cap} (h : s.dec = .acquired) : syncStep true s = s := by
  have hresync : (s.flags.resync || (s.dec.sync && !s.dec.firstEdge)) = s.flags.resync := by
    rw [h]
    exact Bool.or_false _
  rw [syncStep_true, hresync, ← h]
  exact ite_self s

/-- R121: a high sample after acquisition acts on the edge detector only, whatever SYNC_MIN is. -/
theorem polarityStep_true_of_acquired {s : State cap} (hen : s.cfg.en = true) (h : s.dec = .acquired) :
    polarityStep true s = s.setEdge (edgeAfter true s.edge) := by
  rw [polarityStep_true s hen]
  exact syncStep_true_of_acquired (s := s.setEdge (edgeAfter true s.edge)) h

/-- R104: a sample that continues a run changes the run length only. -/
theorem edgeAfter_of_same {pol : Bool} {e : EdgeState} (hp : e.primed = true) (hpol : e.prevPol = pol) :
    edgeAfter pol e = { e with runLen := satSucc e.runLen } := by
  rw [edgeAfter, nextRun_of_same hp hpol, ← hp, ← hpol]

/-- Settles O21: the first sample leaves the decoder just acquired and the edge detector in a high run, and there one more
high sample counts on and does nothing else. -/
theorem syncPulseLengthDoesNotMatter : Obligations.SyncPulseLengthDoesNotMatter := by
  intro m m' s t hen ht hreached
  rw [exec_smpHi] at ht
  cases ht
  have hedge := polarityStep_edge true s hen
  have hacquired : (polarityStep true s).dec = .acquired := by
    rw [polarityStep_cfg, hedge] at hreached
    exact polarityStep_true_dec_of_reached hen hreached
  have hcounts : edgeAfter true (polarityStep true s).edge = _ :=
    edgeAfter_of_same (by rw [hedge]; rfl) (by rw [hedge]; rfl)
  refine ⟨satSucc (polarityStep true s).edge.runLen, satSucc_toNat _, ?_⟩
  rw [exec_smpHi, polarityStep_true_of_acquired (by rwa [polarityStep_cfg]) hacquired, hcounts]
  rfl

/-! ## SYNC_MIN 0 and 1 (R124 item 1) -/

@[simp] theorem syncStep_true_frm (s : State cap) : (syncStep true s).frm = s.frm := by
  rw [syncStep_true]; split <;> rfl

/-- R145, R160, R168: a sample that gives no data bit counts no packet and sends no frame. -/
theorem polarityStep_cnt_frm_of_not_dataEdge (pol : Bool) {s : State cap} (h : ¬ DataEdge s) :
    (polarityStep pol s).cnt = s.cnt ∧ (polarityStep pol s).frm = s.frm := by
  obtain ⟨-, heq⟩ | ⟨-, -, heq⟩ | ⟨-, -, -, heq⟩ | ⟨-, -, -, -, heq⟩ | ⟨hen, -, hs, hf, hhigh, -⟩ :=
    polarityStep_cases pol s
  case inr.inr.inr.inr => exact absurd ⟨⟨hen, hhigh⟩, hs, hf⟩ h
  all_goals rw [heq]; simp

/-- R124 item 1: after the preamble's edge the run is low, so the next low sample is no falling edge. -/
theorem not_dataEdge_of_noBitDue {s : State cap} (h : NoBitDue s) : ¬ DataEdge s := by
  obtain ⟨-, -, -, hlow⟩ := h
  rintro ⟨⟨-, -, hhigh⟩, hs, hf⟩
  exact absurd ((hlow hs hf).symm.trans hhigh) nofun

/-- R124 item 1: a high sample acquires sync, as every run is at least 1 long, and a low one leaves a low run and no bit. -/
theorem polarityStep_keeps_noBitDue (pol : Bool) {s : State cap} (h : NoBitDue s) : NoBitDue (polarityStep pol s) := by
  have hnodata := not_dataEdge_of_noBitDue h
  obtain ⟨hmin, hbit, hbyte, hlow⟩ := h
  obtain ⟨-, heq⟩ | ⟨hen, rfl, -⟩ | ⟨-, -, -, heq⟩ | ⟨-, -, -, -, heq⟩ | ⟨hen, -, hs, hf, hhigh, -⟩ :=
    polarityStep_cases pol s
  case inl => exact heq.symm ▸ ⟨hmin, hbit, hbyte, hlow⟩
  case inr.inl =>
    have hdec := polarityStep_true_dec_of_reached hen (Nat.le_trans hmin (nextRun_pos true s.edge))
    rw [NoBitDue, polarityStep_cfg, hdec]
    exact ⟨hmin, rfl, rfl, fun _ hf => absurd hf nofun⟩
  case inr.inr.inl | inr.inr.inr.inl =>
    rw [heq]
    exact ⟨hmin, hbit, hbyte, fun _ _ => rfl⟩
  case inr.inr.inr.inr => exact absurd ⟨⟨hen, hhigh⟩, hs, hf⟩ hnodata

/-- R212: a write of CTRL that leaves EN at 1 touches neither SYNC_MIN nor the decoder. -/
theorem controlWrite_keeps_noBitDue {d : RegWord} {s : State cap} (hd : ctrlEn d = true) (h : NoBitDue s) :
    NoBitDue (((s.clearCounters d).disableClear d).setCfg (ctrlWritten d s.cfg)) := by
  simpa [NoBitDue, hd, ctrlWritten] using h

/-- Settles O22: no instruction has a data bit to take, so none completes a packet; the configuration is locked, and a write
of CTRL may clear the counters. -/
theorem noBitWithTinySyncMin : Obligations.NoBitWithTinySyncMin := by
  intro i s t hrst hen h ht
  cases exec_effect ht with
  | high | low =>
    obtain ⟨hcnt, hfrm⟩ := polarityStep_cnt_frm_of_not_dataEdge _ (not_dataEdge_of_noBitDue h)
    exact ⟨fun _ => polarityStep_keeps_noBitDue _ h, hfrm, .inl hcnt⟩
  | read | status | pop | ignored => exact ⟨fun _ => h, rfl, .inl rfl⟩
  | config =>
    rw [if_pos hen]
    exact ⟨fun _ => h, rfl, .inl rfl⟩
  | control d =>
    exact ⟨fun hd => controlWrite_keeps_noBitDue hd h, by simp, (HostPart.transaction (.control d) nofun).cnt⟩
  | reset => exact absurd rfl hrst

end Sys2Proof.Machine
end

section
/-! PROOFS. What the falling edge at the end of a high run does in a synchronised decoder (R140 to R145): the edge that is
discarded, a data bit, a byte that is committed, and the last bit of a packet with its verdict (R160 to R166). -/

open Sys2Proof Sys2Proof.Machine

namespace Sys2Proof.Machine

variable {cap : Nat}

/-! ## The bit and the byte of a falling edge, in numbers (R142 to R144) -/

/-- The bit that the falling edge after this high run gives (R142). -/
def edgeBit (s : State cap) : Bool := classify s.edge.runLen s.cfg.bitThresh

theorem edgeBit_toNat (s : State cap) :
    (edgeBit s).toNat = if s.cfg.bitThresh.toNat ≤ s.edge.runLen.toNat then 1 else 0 := by
  rw [edgeBit, classify]
  split
  next h => rw [decide_eq_true h, Bool.toNat_true]
  next h => rw [decide_eq_false h, Bool.toNat_false]

/-- R143: the accumulator with the edge's bit. -/
theorem shiftIn_edgeBit_toNat (s : State cap) : (shiftIn s.dec.acc (edgeBit s)).toNat = byteWithBit s := by
  rw [shiftIn_toNat, edgeBit_toNat, byteWithBit]

/-- The state that Validate meets at the edge that completes a packet: a low run, and the last byte in the buffer (R145). -/
def withPacket (s : State cap) : State cap := (s.setEdge lowRunStarted).setBuf (bufAfterBit (edgeBit s) s)

@[simp] theorem withPacket_cfg (s : State cap) : (withPacket s).cfg = s.cfg := rfl

/-- R144: byte by byte, the buffer that the eighth bit leaves. -/
theorem withPacket_byte_toNat {s : State cap} (hidx : s.dec.byteIdx.toNat < cap) (i : Nat) :
    ((withPacket s).buf.byte i).toNat = packetByte s i := by
  rw [withPacket, State.setBuf_buf, bufAfterBit, packetByte]
  split
  next hi => rw [hi, Buffer.byte_put_self _ _ _ hidx, shiftIn_edgeBit_toNat]
  next hi => rw [Buffer.byte_put_of_ne _ _ _ _ hi]

/-! ## The verdict in numbers (R161 to R166) -/

/-- R163: the filter is its three bytes, the first on top. -/
theorem addrFilter_toNat (f : BitVec 24) :
    f.toNat = (filterByte0 f).toNat * 65536 + (filterByte1 f).toNat * 256 + (filterByte2 f).toNat := by
  have hf := f.isLt
  simp only [filterByte0, filterByte1, filterByte2, BitVec.extractLsb'_toNat, Nat.shiftRight_eq_div_pow]
  omega

/-- R163: the address match compares two numbers of three bytes. -/
theorem addrMatch_iff (b : Buffer cap) (f : BitVec 24) :
    addrMatch b f = true ↔
      (b.byte 0).toNat * 65536 + (b.byte 1).toNat * 256 + (b.byte 2).toNat = f.toNat := by
  have h0 := (b.byte 0).isLt
  have h1 := (b.byte 1).isLt
  have h2 := (b.byte 2).isLt
  have hf0 := (filterByte0 f).isLt
  have hf1 := (filterByte1 f).isLt
  have hf2 := (filterByte2 f).isLt
  simp only [addrMatch, Bool.and_eq_true, beq_iff_eq, ← BitVec.toNat_inj]
  rw [addrFilter_toNat]
  omega

/-- R161, R162: the checksum comparison of two numbers. -/
theorem chkOk_iff (b : Buffer cap) (l : Nat) (offset : Byte) :
    chkOk b l offset = true ↔
      ((∑ i ∈ Finset.range (l - 1), (b.byte i).toNat) + offset.toNat) % 256 = (b.byte (l - 1)).toNat := by
  rw [chkOk, beq_iff_eq, ← BitVec.toNat_inj, BitVec.toNat_add, byteSum_toNat, Nat.mod_add_mod, eq_comm]

section
variable {s : State cap} (hidx : s.dec.byteIdx.toNat < cap)
include hidx

/-- R162: Validate's checksum comparison on the packet that this edge completes. -/
theorem packetOk_withPacket : packetOk (withPacket s) = packetChecks s := by
  rw [Bool.eq_iff_iff, packetOk, chkOk_iff, packetChecks, beq_iff_eq]
  simp only [withPacket_byte_toNat hidx, withPacket_cfg]

/-- R163: Validate's address comparison on the packet that this edge completes. -/
theorem addrMatch_withPacket : addrMatch (withPacket s).buf s.cfg.addrFilter = packetMatches s := by
  rw [Bool.eq_iff_iff, addrMatch_iff, packetMatches, beq_iff_eq]
  simp only [withPacket_byte_toNat hidx]

/-- R164: Validate accepts that packet when it is ours. -/
theorem packetAccepted_withPacket : packetAccepted (withPacket s) = packetIsOurs s := by
  rw [packetAccepted, packetOk_withPacket hidx, withPacket_cfg, addrMatch_withPacket hidx, accepts, packetIsOurs]

end

/-- R166, R301: the code of a verdict. -/
theorem verdict_code (ok acc : Bool) : (verdict ok acc).code = if acc then 1 else if ok then 3 else 2 := by
  cases acc
  · cases ok <;> rfl
  · rfl

/-! ## The low sample that ends a high run -/

/-- R140, R142: at a data edge it starts a low run and gives the assembler one bit. -/
theorem exec_smpLo_dataEdge (m : BitVec 15) {s : State} (h : DataEdge s) :
    exec (.smpLo m) s = .next (takeBit (edgeBit s) (s.setEdge lowRunStarted)) := by
  obtain ⟨⟨hen, hprimed, hhigh⟩, hsync, hfirst⟩ := h
  rw [exec_smpLo, polarityStep_false_data s hen hsync hfirst ⟨hprimed, hhigh⟩, edgeAfter_false_of_new fun _ => hhigh, edgeBit]

/-- R145, R160: at the last data edge of a packet it runs Validate and ends sync. -/
theorem exec_smpLo_packetEdge (m : BitVec 15) {s : State} (h : PacketEdge s) :
    exec (.smpLo m) s = .next ((validate (withPacket s)).setDec .reset) := by
  obtain ⟨⟨hdata, hcnt, -⟩, hlast⟩ := h
  have hlen : s.dec.byteIdx + 1 = s.cfg.pktLen := by bv_omega
  rw [exec_smpLo_dataEdge m hdata, takeBit_complete (edgeBit s) (s.setEdge lowRunStarted) hcnt hlen]
  rfl

/-! ## The statements -/

/-- Settles O13: BitStep discards the first falling edge after sync. -/
theorem firstFallingEdgeDiscarded : Obligations.FirstFallingEdgeDiscarded := by
  intro m s ⟨hen, hprimed, hhigh⟩ hsync hfirst
  rw [exec_smpLo, polarityStep_false_first s hen hsync hfirst ⟨hprimed, hhigh⟩, edgeAfter_false_of_new fun _ => hhigh]
  rfl

/-- Settles O14: with fewer than seven bits in the accumulator the edge's bit is shifted in, and no byte is whole. -/
theorem dataBitShiftedIn : Obligations.DataBitShiftedIn := by
  intro m s hdata hcnt
  have hne : s.dec.bitCnt ≠ 7 := fun h => by simp [h] at hcnt
  have hacc : shiftIn s.dec.acc (edgeBit s) = BitVec.ofNat 8 (byteWithBit s) := by
    rw [← shiftIn_edgeBit_toNat, BitVec.ofNat_toNat, BitVec.setWidth_eq]
  rw [exec_smpLo_dataEdge m hdata, takeBit_of_ne (edgeBit s) (s.setEdge lowRunStarted) hne, ← hacc]
  rfl

/-- Settles O15: the byte that the eighth bit completes goes into the buffer; its index, below 16, cannot wrap to PKT_LEN. -/
theorem eighthBitCommitsByte : Obligations.EighthBitCommitsByte := by
  intro m s ⟨hdata, hcnt, hidx⟩ hshort
  have hcap : s.dec.byteIdx.toNat < 16 := hidx
  have hne : s.dec.byteIdx + 1 ≠ s.cfg.pktLen := by bv_omega
  refine ⟨(withPacket s).buf, fun i _ => withPacket_byte_toNat hidx i, ?_⟩
  rw [exec_smpLo_dataEdge m hdata, takeBit_commit (edgeBit s) (s.setEdge lowRunStarted) hcnt hne]
  rfl

/-- Settles O16: the counters, the verdict and OVERRUN are Validate's, whose two verdict bits are those of the packet in
numbers; everything else that is listed Validate leaves alone. -/
theorem packetCompletionVerdict : Obligations.PacketCompletionVerdict := by
  intro m s hpacket
  have ⟨⟨_, _, hidx⟩, _⟩ := hpacket
  have hok := packetOk_withPacket hidx
  have hacc := packetAccepted_withPacket hidx
  refine ⟨_, exec_smpLo_packetEdge m hpacket, rfl, rfl, fun i _ => withPacket_byte_toNat hidx i, ?counters, ?result,
    ?overrun, rfl, rfl, rfl, rfl, rfl⟩
  case counters =>
    rw [State.setDec_cnt, validate_cnt, hok, hacc]
    rfl
  case result => rw [State.setDec_flags, validate_flags, hok, hacc, verdict_code]
  case overrun =>
    rw [State.setDec_flags, validate_flags, hacc]
    rfl

end Sys2Proof.Machine
end

section
/-! PROOFS. The validator's checksum, latch and frame port (R161, R167, R168, R171): what one changed byte does to the
checksum, where the packet of the completing sample goes, and which cycles drive a frame. -/

open Sys2Proof Sys2Proof.Machine

namespace Sys2Proof.Machine

variable {cap : Nat}

/-! ## The checksum of a changed packet (R161, R171) -/

/-- R161: a byte that is not among the summed ones does not matter. -/
theorem byteSum_put_of_le (b : Buffer cap) {k n : Nat} (v : Byte) (h : n ≤ k) : byteSum (b.put k v) n = byteSum b n :=
  byteSum_congr fun i hi => Buffer.byte_put_of_ne b k i v (by omega)

/-- R161: a summed byte that is replaced moves the sum by as much as the byte. -/
theorem byteSum_put_of_lt (b : Buffer cap) {k n : Nat} (v : Byte) (hk : k < cap) (h : k < n) :
    byteSum (b.put k v) n = byteSum b n + (v - b.byte k) := by
  induction n with
  | zero => exact absurd h (Nat.not_lt_zero k)
  | succ n ih =>
    rw [byteSum, byteSum]
    rcases Nat.lt_succ_iff_lt_or_eq.1 h with hlt | rfl
    · rw [ih hlt, Buffer.byte_put_of_ne b k n v (Nat.ne_of_gt hlt)]
      ring
    · rw [byteSum_put_of_le b v (Nat.le_refl k), Buffer.byte_put_self b k v hk]
      ring

/-- R171: the checksum is a sum modulo 256, so a single changed byte always shows, on either side of the comparison. -/
theorem chkOk_put_of_ne {b : Buffer cap} {l k : Nat} {v offset : Byte} (hl : l ≤ cap) (hk : k < l) (hv : v ≠ b.byte k)
    (h : chkOk b l offset = true) : chkOk (b.put k v) l offset = false := by
  rw [chkOk, beq_iff_eq] at h
  rw [chkOk, beq_eq_false_iff_ne]
  rcases Nat.lt_or_ge k (l - 1) with hlt | hge
  · rw [Buffer.byte_put_of_ne b k (l - 1) v (Nat.ne_of_gt hlt), byteSum_put_of_lt b v (Nat.lt_of_lt_of_le hk hl) hlt, h]
    intro heq
    exact hv (by linear_combination -heq)
  · obtain rfl : k = l - 1 := by omega
    rw [Buffer.byte_put_self b (l - 1) v (Nat.lt_of_lt_of_le hk hl), byteSum_put_of_le b v (Nat.le_refl _), ← h]
    exact hv

/-- R171: two changes that cancel in the sum keep the checksum. -/
theorem chkOk_put_put_of_cancel {b : Buffer cap} {l j k : Nat} {v w offset : Byte} (hl : l ≤ cap) (hj : j < l - 1)
    (hk : k < l - 1) (hne : k ≠ j) (hcancel : (v - b.byte j) + (w - b.byte k) = 0) (h : chkOk b l offset = true) :
    chkOk ((b.put j v).put k w) l offset = true := by
  rw [chkOk, beq_iff_eq] at h ⊢
  rw [Buffer.byte_put_of_ne _ _ _ _ (Nat.ne_of_gt hk), Buffer.byte_put_of_ne _ _ _ _ (Nat.ne_of_gt hj),
    byteSum_put_of_lt _ w (by omega) hk, byteSum_put_of_lt b v (by omega) hj, Buffer.byte_put_of_ne b j k v hne, h]
  linear_combination -hcancel

/-- Settles O43: a single changed byte moves one side of the comparison only, and one up and one down cancel. -/
theorem singleByteCorruptionDetected : Obligations.SingleByteCorruptionDetected := by
  refine ⟨fun b l k v offset _ hl hk hv h => chkOk_put_of_ne hl hk hv h, fun b l offset hmin hl h => ?_⟩
  exact chkOk_put_put_of_cancel hl (by omega) (by omega) (by decide) (by ring) h

/-! ## The latch (R167) -/

/-- R167: a packet that is not accepted is not copied. -/
theorem latchPacket_of_rejected (b : Buffer cap) (l : BitVec 5) (r : RxLatch cap) : latchPacket false b l r = r := by
  simp [latchPacket]

/-- Settles O17: Validate accepts the packet exactly when it is ours, and the latch takes an accepted packet if it is empty. -/
theorem acceptedPacketLatched : Obligations.AcceptedPacketLatched := by
  intro m s hpacket
  have ⟨⟨_, _, hidx⟩, _⟩ := hpacket
  have hacc := packetAccepted_withPacket hidx
  have hrx : ((validate (withPacket s)).setDec .reset).rx =
      latchPacket (packetIsOurs s) (withPacket s).buf s.cfg.pktLen s.rx := by
    rw [State.setDec_rx, validate_rx, hacc]
    rfl
  have hoverrun : ((validate (withPacket s)).setDec .reset).flags.overrun =
      (s.flags.overrun || (packetIsOurs s && s.rx.full)) := by
    rw [State.setDec_flags, validate_flags, hacc]
    rfl
  refine ⟨_, exec_smpLo_packetEdge m hpacket, fun hours hempty => ?taken, fun hours hfull => ?overrun,
    fun hnot => ?rejected, rfl, rfl⟩
  case taken =>
    rw [hrx, hours, latchPacket_of_empty _ _ hempty]
    refine ⟨rfl, rfl, fun i _ => ?_⟩
    rw [Buffer.byte_first, apply_ite BitVec.toNat, withPacket_byte_toNat hidx]
    rfl
  case overrun =>
    rw [hrx, hoverrun, latchPacket_of_full _ _ _ hfull, hours, hfull, Bool.and_self, Bool.or_true]
    exact ⟨rfl, rfl⟩
  case rejected =>
    rw [hrx, hoverrun, hnot, latchPacket_of_rejected, Bool.false_and, Bool.or_false]
    exact ⟨rfl, rfl⟩

/-! ## The frame of a packet (R168) -/

/-- R90, R168: byte `i` of `frm_data` as a number is a byte of the packet, or 0 from its length on. -/
theorem frameOf_data_toNat (v : Verdict) (b : Buffer cap) (l : BitVec 5) {i : Nat} (hi : i < cap) :
    (frameOf v b l).data.toNat / 2 ^ (8 * i) % 256 = if i < l.toNat then (b.byte i).toNat else 0 := by
  have hbyte := congrArg BitVec.toNat (extractLsb'_packBytes (b.first l.toNat) hi)
  rw [BitVec.extractLsb'_toNat, Nat.shiftRight_eq_div_pow, Buffer.byte_first, apply_ite BitVec.toNat] at hbyte
  exact hbyte

/-- Settles O18: the frame is built from the packet and the verdict that Validate sees. -/
theorem completedPacketFramed : Obligations.CompletedPacketFramed := by
  intro m s hpacket
  have ⟨⟨_, _, hidx⟩, _⟩ := hpacket
  refine ⟨_, exec_smpLo_packetEdge m hpacket, rfl, ?result, rfl, fun i hi => ?data⟩
  case result =>
    rw [← packetOk_withPacket hidx, ← packetAccepted_withPacket hidx, ← verdict_code]
    rfl
  case data =>
    rw [State.setDec_frm, validate_frm, frameOf_data_toNat _ _ _ hi, withPacket_byte_toNat hidx, withPacket_cfg]

/-! ## The one cycle of a frame (R168) -/

/-- The next low sample gives the eighth bit of byte PKT_LEN - 1 (R144, R145). -/
def CompletesPacket (s : State cap) : Prop :=
  DataEdge s ∧ s.dec.bitCnt = 7 ∧ s.dec.byteIdx + 1 = s.cfg.pktLen

/-- What Validate writes and later cycles show of a packet is unchanged: the counters, the latch and the frame port. -/
def KeepsVerdicts (s t : State cap) : Prop := t.cnt = s.cnt ∧ t.rx = s.rx ∧ t.frm = s.frm

/-- R145, R160: a sample runs Validate when it is low and completes a packet, and else leaves alone what Validate writes. -/
theorem polarityStep_completes_or_keeps (pol : Bool) (s : State cap) :
    (pol = false ∧ CompletesPacket s ∧ polarityStep pol s = (validate (withPacket s)).setDec .reset) ∨
      KeepsVerdicts s (polarityStep pol s) := by
  obtain ⟨-, heq⟩ | ⟨-, -, heq⟩ | ⟨-, -, -, heq⟩ | ⟨-, -, -, -, heq⟩ | ⟨hen, hpol, hs, hf, hhigh, heq⟩ :=
    polarityStep_cases pol s <;> rw [heq]
  case inr.inl => exact .inr ⟨by simp, by simp, by simp⟩
  case inr.inr.inr.inr =>
    rw [edgeAfter_false_of_new fun _ => hhigh.2]
    obtain ⟨-, hbit⟩ | ⟨-, -, hbit⟩ | ⟨h7, hl, hbit⟩ :=
      takeBit_cases (classify s.edge.runLen s.cfg.bitThresh) (s.setEdge lowRunStarted) <;> rw [hbit]
    · exact .inr ⟨rfl, rfl, rfl⟩
    · exact .inr ⟨rfl, rfl, rfl⟩
    · exact .inl ⟨hpol, ⟨⟨⟨hen, hhigh⟩, hs, hf⟩, h7, hl⟩, rfl⟩
  all_goals exact .inr ⟨rfl, rfl, rfl⟩

/-- R168, R400: no bus transaction and no RST drives a frame. -/
theorem HostPart.frm {s u : State cap} (h : HostPart s u) (hs : s.frm = .idle) : u.frm = .idle := by
  cases h with
  | idle => exact hs
  | transaction h hi =>
    cases h with
    | high | low => exact absurd rfl hi
    | read | status | pop | ignored => exact hs
    | config => split <;> exact hs
    | reset => rfl
    | control d => simpa using hs

/-- R167, R216, R400: the host part of a cycle empties the latch or leaves it. -/
theorem HostPart.rx {s u : State cap} (h : HostPart s u) (hfull : u.rx.full = true) : u.rx = s.rx := by
  cases h with
  | idle => rfl
  | transaction h hi =>
    cases h with
    | high | low => exact absurd rfl hi
    | read | status | ignored => rfl
    | config => split <;> rfl
    | pop | reset => exact absurd hfull nofun
    | control d => simp

/-- The state that the sample of a cycle sees: what the cycle's bus transaction, if it has one, leaves (R81). -/
def SampleSees (c : Cycle) (s u : State) : Prop :=
  (c.bus = none ∧ u = s) ∨ ∃ b, c.bus = some b ∧ exec (decodeBus b) s = .next u

theorem hostPart_of_decodeBus {b : BusWord} {s u : State} (h : exec (decodeBus b) s = .next u) : HostPart s u :=
  .transaction (exec_effect h) (by simp [encode_decodeBus_format])

theorem SampleSees.hostPart {c : Cycle} {s u : State} (h : SampleSees c s u) : HostPart s u := by
  obtain ⟨-, rfl⟩ | ⟨b, -, hu⟩ := h
  · exact .idle
  · exact hostPart_of_decodeBus hu

/-- A cycle that ends with a sample, on the pins `c`: without RST, and at the state that the sample sees (R81). -/
structure SampleCycle (s : State) (c : Cycle) (x : SampleWord) (u t : State) : Prop where
  next : s.nextCycle = c
  rst : c.rst = 0
  smp : c.smp = some x
  sees : SampleSees c s.beginCycle u
  result : t = polarityStep (polarity x) u

/-- R81: a cycle is its host part alone, or a sample at the state that the host part leaves. -/
theorem step_parts {s t : State} (h : step s = .next t) :
    HostPart s.beginCycle t ∨ ∃ c x u, SampleCycle s c x u t := by
  rw [step, runCycle] at h
  obtain ⟨-, hi⟩ | ⟨-, -, -, hi⟩ | ⟨b, -, -, -, hi⟩ | ⟨x, hrst, hbus, hsmp, hi⟩ | ⟨b, x, hrst, hbus, hsmp, hi⟩ :=
    cycleInstrs_cases s.nextCycle <;> rw [hi] at h
  case inl =>
    rw [runInstrs_singleton] at h
    exact .inl (.transaction (exec_effect h) (by decide))
  case inr.inl => cases h; exact .inl .idle
  case inr.inr.inl =>
    rw [runInstrs_singleton] at h
    exact .inl (hostPart_of_decodeBus h)
  case inr.inr.inr.inl =>
    rw [runInstrs_singleton, exec_decodeSmp] at h
    cases h
    exact .inr ⟨_, x, _, rfl, hrst, hsmp, .inl ⟨hbus, rfl⟩, rfl⟩
  case inr.inr.inr.inr =>
    obtain ⟨u, hu, ht⟩ := runInstrs_cons_eq_next h
    rw [runInstrs_singleton, exec_decodeSmp] at ht
    cases ht
    exact .inr ⟨_, x, u, rfl, hrst, hsmp, .inr ⟨b, hbus, hu⟩, rfl⟩

/-- A cycle with a sample stood on the pins: it is no idle cycle after the end of the queue. -/
theorem SampleCycle.inputs {s u t : State} {c : Cycle} {x : SampleWord} (h : SampleCycle s c x u t) :
    s.inputs = c :: s.inputs.tail := by
  have hnext := h.next
  rw [State.nextCycle] at hnext
  cases hin : s.inputs with rw [hin] at hnext
  | nil =>
    have hsmp := h.smp
    rw [← hnext] at hsmp
    cases hsmp
  | cons c' rest => exact congrArg (· :: rest) hnext

/-- R165, R167, R168: after the host part of a cycle the frame port is idle, and nothing was counted or latched. -/
theorem idle_of_hostPart {s u : State} (h : HostPart s.beginCycle u) :
    u.frm = .idle ∧ (u.cnt = s.cnt ∨ u.cnt = .reset) ∧ (u.rx.full = true → u.rx = s.rx) :=
  ⟨h.frm rfl, h.cnt, h.rx⟩

/-- R301: every packet has a verdict. -/
theorem verdict_ne_none (ok acc : Bool) : verdict ok acc ≠ .none := by
  cases acc
  · cases ok <;> nofun
  · nofun

/-- Settles O19: the port is idle when a cycle starts, its host part leaves it so, and of the samples only the one that
completes a packet drives it, through Validate. -/
theorem framePortDrivenForOneCycle : Obligations.FramePortDrivenForOneCycle := by
  intro s t ht
  obtain hhost | ⟨c, x, u, hcycle⟩ := step_parts ht
  · exact .inl (idle_of_hostPart hhost)
  have hin := hcycle.inputs
  obtain ⟨-, hrst, hsmp, hsees, rfl⟩ := hcycle
  obtain ⟨hpol, ⟨hdata, h7, hlast⟩, heq⟩ | ⟨hcnt, hrx, hfrm⟩ := polarityStep_completes_or_keeps (polarity x) u
  · have hlow : x.getLsbD 15 = true := by rwa [polarity_eq, Bool.not_eq_false'] at hpol
    rw [heq]
    exact .inr ⟨rfl, rfl, rfl, verdict_ne_none _ _, rfl, c, s.inputs.tail, x, u, hin, hrst, hsmp, hlow, hsees, hdata, h7,
      hlast, rfl⟩
  · rw [hcnt, hrx, hfrm]
    exact .inl (idle_of_hostPart hsees.hostPart)

end Sys2Proof.Machine
end

section
/-! PROOFS. The host registers (R200 to R233): which instruction a word of each row is, what a read answers, what a write
changes, and the configuration lock of an enabled decoder (R202). -/

open Sys2Proof Sys2Proof.Machine

namespace Sys2Proof

/-! ## The instruction of a row (R92, R95) -/

theorem decodeBus_of_fields {w : BusWord} {we : BitVec 1} {a : BusAddr} (h : w &&& 0x1FF00000000 = busWord we a 0) :
    decodeBus w = if we.getLsbD 0 then decodeWrite a (busData w) else decodeRead a (busData w) := by
  rw [← busWord_fields w, mask_named] at h
  obtain ⟨rfl, rfl⟩ := h
  rw [← decodeBus_busWord, busWord_fields]

/-- A word of the row that reads one address is the read of that address. -/
theorem decodeBus_of_readRow {w : BusWord} (a : BusAddr) (h : w &&& 0x1FF00000000 = busWord 0 a 0) :
    decodeBus w = decodeRead a (busData w) :=
  decodeBus_of_fields h

/-- A word of the row that writes one address is the write to that address. -/
theorem decodeBus_of_writeRow {w : BusWord} (a : BusAddr) (h : w &&& 0x1FF00000000 = busWord 1 a 0) :
    decodeBus w = decodeWrite a (busData w) :=
  decodeBus_of_fields h

/-- R94, R231: the index of the latch byte is address bits 5:2, bits 37:34 of the word. -/
theorem rxIndex_busAddr (w : BusWord) : rxIndex (busAddr w) = w.extractLsb' 34 4 :=
  BitVec.eq_of_getLsbD_eq fun i hi => by
    simp only [rxIndex, busAddr, BitVec.getLsbD_extractLsb', decide_eq_true hi, Bool.true_and]
    rw [decide_eq_true (by omega), Bool.true_and, ← Nat.add_assoc]

theorem decodeBus_of_rxByteRow {w : BusWord} (h : w &&& 0x1C300000000 = 0x04000000000) :
    decodeBus w = .rdRxByte (w.extractLsb' 34 4) (busData w) := by
  rw [← busWord_fields w] at h
  obtain ⟨hwe, haddr⟩ := (mask_rxByte _ 0 _ 0x40 _).1 h
  have hrx : isRxByteAddr (busAddr w) = true := beq_iff_eq.2 haddr
  have hread : decodeBus w = decodeRead (busAddr w) (busData w) := by
    rw [← busWord_fields w, hwe, decodeBus_busWord, busAddr_busWord, busData_busWord]
    rfl
  rw [hread, ← rxIndex_busAddr]
  exact (congrArg (decodeRead · _) (rxByteAddr_rxIndex _ hrx).symm).trans (decodeRead_rxByteAddr _ _)

theorem opcode_decodeBus_of_firstRow {w : BusWord} {o : Opcode}
    (h : (firstRow (.bus w)).map OpRow.opcode = some o) : (decodeBus w).opcode = o :=
  Option.some.inj ((firstRow_decodeBus w).symm.trans h)

/-- A catch-all instruction carries the address and the data of its word (R232, R233). -/
theorem catchAll_operands {w : BusWord} {i : Instr} (henc : encode i = .bus w) :
    (i.opcode = .rdZero → i = .rdZero (busAddr w) (busData w)) ∧
      (i.opcode = .wrIgnored → i = .wrIgnored (busAddr w) (busData w)) := by
  cases i with
  | rdZero a d =>
    obtain rfl := TxWord.bus.inj henc
    rw [busAddr_busWord, busData_busWord]
    exact ⟨fun _ => rfl, nofun⟩
  | wrIgnored a d =>
    obtain rfl := TxWord.bus.inj henc
    rw [busAddr_busWord, busData_busWord]
    exact ⟨nofun, fun _ => rfl⟩
  | _ => exact ⟨nofun, nofun⟩

theorem decodeBus_of_firstRow_rdZero {w : BusWord} (h : (firstRow (.bus w)).map OpRow.opcode = some .rdZero) :
    decodeBus w = .rdZero (busAddr w) (busData w) :=
  (catchAll_operands (decodeBus_encodesTo w).2).1 (opcode_decodeBus_of_firstRow h)

theorem decodeBus_of_firstRow_wrIgnored {w : BusWord} (h : (firstRow (.bus w)).map OpRow.opcode = some .wrIgnored) :
    decodeBus w = .wrIgnored (busAddr w) (busData w) :=
  (catchAll_operands (decodeBus_encodesTo w).2).2 (opcode_decodeBus_of_firstRow h)

/-! ## The write data (R92) -/

theorem getLsbD_busData (w : BusWord) {k : Nat} (hk : k < 32) : (busData w).getLsbD k = w.getLsbD k := by
  rw [busData, BitVec.getLsbD_extractLsb', decide_eq_true hk, Bool.true_and, Nat.zero_add]

theorem ctrlEn_busData (w : BusWord) : ctrlEn (busData w) = w.getLsbD 0 := getLsbD_busData w (by decide)
theorem ctrlAfEn_busData (w : BusWord) : ctrlAfEn (busData w) = w.getLsbD 1 := getLsbD_busData w (by decide)
theorem ctrlIe_busData (w : BusWord) : ctrlIe (busData w) = w.getLsbD 2 := getLsbD_busData w (by decide)
theorem ctrlCntClr_busData (w : BusWord) : ctrlCntClr (busData w) = w.getLsbD 3 := getLsbD_busData w (by decide)
theorem statusOverrun_busData (w : BusWord) : statusOverrun (busData w) = w.getLsbD 2 := getLsbD_busData w (by decide)
theorem statusResync_busData (w : BusWord) : statusResync (busData w) = w.getLsbD 3 := getLsbD_busData w (by decide)

theorem extractLsb'_busData (w : BusWord) {n : Nat} (hn : n ≤ 32) :
    (busData w).extractLsb' 0 n = w.extractLsb' 0 n :=
  BitVec.extractLsb'_extractLsb'_of_le (by omega)

/-! ## Fields of a word that is known as a number -/

theorem getLsbD_eq_of_toNat {n k : Nat} {v : BitVec n} {b : Bool} (h : v.toNat / 2 ^ k % 2 = b.toNat) :
    v.getLsbD k = b := by
  rw [← BitVec.testBit_toNat, Nat.testBit_eq_decide_div_mod_eq, h]
  cases b <;> rfl

theorem extractLsb'_eq_of_toNat {n m k : Nat} {v : BitVec n} {x : BitVec m} (h : v.toNat / 2 ^ k % 2 ^ m = x.toNat) :
    v.extractLsb' k m = x := by
  apply BitVec.eq_of_toNat_eq
  rw [BitVec.extractLsb'_toNat, Nat.shiftRight_eq_div_pow, h]

theorem extractLsb'_eq_zero_of_toNat {n m k : Nat} {v : BitVec n} (h : v.toNat / 2 ^ k % 2 ^ m = 0) :
    v.extractLsb' k m = 0 :=
  extractLsb'_eq_of_toNat (h.trans BitVec.toNat_zero.symm)

end Sys2Proof

namespace Sys2Proof.Machine

variable {cap : Nat}

/-! ## The configuration lock (R202) -/

/-- R202: of the configuration of an enabled decoder only EN and IE can change, short of RST. -/
theorem Effect.cfg_of_enabled {i : Instr} {s t : State cap} (h : Effect s i t) (hrst : i ≠ .rst)
    (hen : s.cfg.en = true) : t.cfg = { s.cfg with en := t.cfg.en, ie := t.cfg.ie } := by
  cases h with
  | high | low => rw [polarityStep_cfg]
  | read | status | pop | ignored => rfl
  | control d => rw [State.setCfg_cfg, ctrlWritten, if_pos hen]
  | config => rw [if_pos hen]
  | reset => exact absurd rfl hrst

/-- R212: only WR_CTRL moves EN or IE, short of RST. -/
theorem Effect.en_ie {i : Instr} {s t : State cap} (h : Effect s i t) (hrst : i ≠ .rst) (hctrl : i.opcode ≠ .wrCtrl) :
    t.cfg.en = s.cfg.en ∧ t.cfg.ie = s.cfg.ie := by
  cases h with
  | high | low => rw [polarityStep_cfg]; exact ⟨rfl, rfl⟩
  | read | status | pop | ignored => exact ⟨rfl, rfl⟩
  | control d => exact absurd rfl hctrl
  | config i c hc =>
    split
    · exact ⟨rfl, rfl⟩
    · exact ⟨hc.en, hc.ie⟩
  | reset => exact absurd rfl hrst

/-- Settles O35: what an instruction can do to the configuration, by the cases of its effect. -/
theorem configurationLockedWhileEnabled : Obligations.ConfigurationLockedWhileEnabled := by
  intro i s t hrst ht
  have heff := exec_effect ht
  exact ⟨heff.cfg_of_enabled hrst, heff.en_ie hrst⟩

/-! ## Reads (R200) -/

/-- Settles O26: the word is a read of its address, and that read answers the register. -/
theorem configurationReads : Obligations.ConfigurationReads := fun _ _ =>
  ⟨fun h => ⟨decodeBus_of_readRow 0x08 h, rfl⟩, fun h => ⟨decodeBus_of_readRow 0x0C h, rfl⟩,
    fun h => ⟨decodeBus_of_readRow 0x10 h, rfl⟩, fun h => ⟨decodeBus_of_readRow 0x14 h, rfl⟩,
    fun h => ⟨decodeBus_of_readRow 0x18 h, rfl⟩⟩

/-- Settles O27: the word is a read of its address, and that read answers the counter. -/
theorem counterReads : Obligations.CounterReads := fun _ _ =>
  ⟨fun h => ⟨decodeBus_of_readRow 0x1C h, rfl⟩, fun h => ⟨decodeBus_of_readRow 0x20 h, rfl⟩,
    fun h => ⟨decodeBus_of_readRow 0x24 h, rfl⟩⟩

/-- Settles O28: two rows of one address, the row of the sixteen latch bytes, and the reads that no row names. -/
theorem latchAndRunLengthReads : Obligations.LatchAndRunLengthReads := fun _ _ =>
  ⟨fun h => ⟨decodeBus_of_readRow 0x2C h, rfl⟩, fun h => ⟨decodeBus_of_readRow 0x34 h, rfl⟩,
    fun h => ⟨decodeBus_of_rxByteRow h, rfl⟩, fun h => ⟨decodeBus_of_firstRow_rdZero h, rfl⟩⟩

/-- R39, R210: the fields of CTRL. -/
theorem ctrlWord_fields (s : State cap) :
    (ctrlWord s).getLsbD 0 = s.cfg.en ∧ (ctrlWord s).getLsbD 1 = s.cfg.afEn ∧ (ctrlWord s).getLsbD 2 = s.cfg.ie ∧
      (ctrlWord s).extractLsb' 3 29 = 0 := by
  have hen := Bool.toNat_lt s.cfg.en
  have haf := Bool.toNat_lt s.cfg.afEn
  have hie := Bool.toNat_lt s.cfg.ie
  refine ⟨getLsbD_eq_of_toNat ?_, getLsbD_eq_of_toNat ?_, getLsbD_eq_of_toNat ?_, extractLsb'_eq_zero_of_toNat ?_⟩ <;>
    rw [ctrlWord_toNat] <;> omega

/-- R40, R211: the fields of STATUS. -/
theorem statusWord_fields (s : State cap) :
    (statusWord s).getLsbD 0 = s.dec.sync ∧ (statusWord s).getLsbD 1 = s.rx.full ∧
      (statusWord s).getLsbD 2 = s.flags.overrun ∧ (statusWord s).getLsbD 3 = s.flags.resync ∧
      (statusWord s).extractLsb' 4 2 = s.flags.lastResult.code ∧ (statusWord s).getLsbD 6 = s.edge.prevPol ∧
      (statusWord s).getLsbD 7 = s.edge.primed ∧ (statusWord s).extractLsb' 8 24 = 0 := by
  have hsync := Bool.toNat_lt s.dec.sync
  have hfull := Bool.toNat_lt s.rx.full
  have hoverrun := Bool.toNat_lt s.flags.overrun
  have hresync := Bool.toNat_lt s.flags.resync
  have hpol := Bool.toNat_lt s.edge.prevPol
  have hprimed := Bool.toNat_lt s.edge.primed
  refine ⟨getLsbD_eq_of_toNat ?_, getLsbD_eq_of_toNat ?_, getLsbD_eq_of_toNat ?_, getLsbD_eq_of_toNat ?_,
    extractLsb'_eq_of_toNat ?_, getLsbD_eq_of_toNat ?_, getLsbD_eq_of_toNat ?_, extractLsb'_eq_zero_of_toNat ?_⟩ <;>
    rw [statusWord_toNat] <;> omega

/-- R49, R229: the fields of DBG. -/
theorem dbgWord_fields (s : State cap) :
    (dbgWord s).extractLsb' 0 8 = s.dec.acc ∧ (dbgWord s).extractLsb' 8 4 = s.dec.bitCnt ∧
      (dbgWord s).extractLsb' 12 4 = 0 ∧ (dbgWord s).extractLsb' 16 5 = s.dec.byteIdx ∧
      (dbgWord s).extractLsb' 21 3 = 0 ∧ (dbgWord s).getLsbD 24 = s.dec.firstEdge ∧
      (dbgWord s).extractLsb' 25 7 = 0 := by
  have hfirst := Bool.toNat_lt s.dec.firstEdge
  refine ⟨extractLsb'_eq_of_toNat ?_, extractLsb'_eq_of_toNat ?_, extractLsb'_eq_zero_of_toNat ?_,
    extractLsb'_eq_of_toNat ?_, extractLsb'_eq_zero_of_toNat ?_, getLsbD_eq_of_toNat ?_, extractLsb'_eq_zero_of_toNat ?_⟩ <;>
    rw [dbgWord_toNat] <;> omega

/-- Settles O29: the word is a read of its address, and the composed register has its fields at their bits. -/
theorem composedReads : Obligations.ComposedReads := fun _ s =>
  ⟨fun h => ⟨decodeBus_of_readRow 0x00 h, ctrlWord s, rfl, ctrlWord_fields s⟩,
    fun h => ⟨decodeBus_of_readRow 0x04 h, statusWord s, rfl, statusWord_fields s⟩,
    fun h => ⟨decodeBus_of_readRow 0x30 h, dbgWord s, rfl, dbgWord_fields s⟩⟩

/-! ## Writes -/

/-- R212: all that a write of CTRL does, by the state items it can change. -/
theorem controlWrite_eq (d : RegWord) (s : State cap) :
    ((s.clearCounters d).disableClear d).setCfg (ctrlWritten d s.cfg) =
      { s with cfg := ctrlWritten d s.cfg, cnt := if ctrlCntClr d = true then .reset else s.cnt,
               edge := if s.cfg.en = true ∧ ctrlEn d = false then .reset else s.edge,
               dec := if s.cfg.en = true ∧ ctrlEn d = false then .reset else s.dec } := by
  apply State.eq_of_fields <;> simp

/-- Settles O31: the write of CTRL with its bits read off the BUS word. -/
theorem controlWrite : Obligations.ControlWrite := by
  intro w s h
  refine ⟨decodeBus_of_writeRow 0x00 h, ?_⟩
  have heq : exec (.wrCtrl (busData w)) s = _ := congrArg Host.Outcome.next (controlWrite_eq (busData w) s)
  simp only [heq, ctrlWritten, ctrlEn_busData, ctrlAfEn_busData, ctrlIe_busData, ctrlCntClr_busData]
  rfl

/-- A flag that a 1 clears (R213). -/
theorem and_not_eq_ite (b clear : Bool) : (b && !clear) = if clear = true then false else b := by
  cases clear <;> simp

/-- Settles O32: each of the two flags is cleared by its bit of the BUS word. -/
theorem statusWrite : Obligations.StatusWrite := by
  intro w s h
  refine ⟨decodeBus_of_writeRow 0x04 h, ?_⟩
  rw [← statusOverrun_busData, ← statusResync_busData, ← and_not_eq_ite, ← and_not_eq_ite]
  rfl

/-- R202: a locked register is written exactly in a disabled decoder. -/
theorem writeUnlocked_eq_of_disabled (f : ConfigRegs → ConfigRegs) (s : State cap) :
    writeUnlocked f s = if s.cfg.en = false then { s with cfg := f s.cfg } else s := by
  rw [writeUnlocked]
  cases s.cfg.en <;> rfl

/-- Settles O33: four registers take their slice under the lock alone, PKT_LEN under the lock and its range. -/
theorem configurationWrites : Obligations.ConfigurationWrites := by
  intro w s
  have slice {n : Nat} (hn : n ≤ 32) := extractLsb'_busData w hn
  refine ⟨fun h => ⟨decodeBus_of_writeRow 0x08 h, ?syncMin⟩, fun h => ⟨decodeBus_of_writeRow 0x0C h, ?bitThresh⟩,
    fun h => ⟨decodeBus_of_writeRow 0x10 h, ?pktLen⟩, fun h => ⟨decodeBus_of_writeRow 0x14 h, ?chkOffset⟩,
    fun h => ⟨decodeBus_of_writeRow 0x18 h, ?addrFilter⟩⟩
  case pktLen =>
    rw [← slice (by decide), exec_eq_execAt]
    exact packetLengthLegalUpToCapacity 16 (busData w) s
  all_goals
    rw [← slice (by decide)]
    exact congrArg Host.Outcome.next (writeUnlocked_eq_of_disabled _ s)

/-- Settles O34: the pop writes the latch's flag alone, and the write that no row names has no effect. -/
theorem popAndIgnoredWrites : Obligations.PopAndIgnoredWrites := fun _ _ =>
  ⟨fun h => ⟨decodeBus_of_writeRow 0x28 h, rfl⟩, fun h => ⟨decodeBus_of_firstRow_wrIgnored h, rfl⟩⟩

end Sys2Proof.Machine
end

section
/-! PROOFS. Outcomes and the interrupt line (R300, R302): no transaction and no cycle stops the machine, and each way of
removing the interrupt's cause. -/

open Sys2Proof Sys2Proof.Machine

namespace Sys2Proof.Machine

variable {cap : Nat}

/-! ## Every cycle completes (R300) -/

/-- R83, R300: where no transaction stops, no sequence of them does. -/
theorem runInstrs_eq_next {ex : Instr → State cap → Host.Outcome (State cap) Fault Refusal}
    (h : ∀ i s, ∃ t, ex i s = .next t) : ∀ (is : List Instr) (s : State cap), ∃ t, runInstrs ex is s = .next t := by
  intro is
  induction is with
  | nil => exact fun s => ⟨s, rfl⟩
  | cons i is ih =>
    intro s
    obtain ⟨u, hu⟩ := h i s
    rw [runInstrs, hu]
    exact ih u

/-- Settles O8: no instruction stops, and a cycle is a sequence of instructions from the start of the cycle. -/
theorem noTransactionStops : Obligations.NoTransactionStops :=
  ⟨exec_eq_next, fun s => runInstrs_eq_next exec_eq_next (cycleInstrs s.nextCycle) s.beginCycle⟩

/-! ## The interrupt line (R302) -/

/-- R302: the level, by the enable and the two causes. -/
theorem irq_iff (s : State cap) : s.irq = true ↔ s.cfg.ie = true ∧ (s.rx.full = true ∨ s.flags.overrun = true) := by
  rw [State.irq, Bool.and_eq_true, Bool.or_eq_true]

/-- R302: without the enable there is no interrupt. -/
theorem irq_of_masked {s : State cap} (h : s.cfg.ie = false) : s.irq = false := by
  rw [State.irq, h, Bool.false_and]

/-- R302: with the latch empty, OVERRUN is the one cause left. -/
theorem irq_iff_of_empty {s : State cap} (h : s.rx.full = false) :
    s.irq = true ↔ s.cfg.ie = true ∧ s.flags.overrun = true := by
  rw [State.irq, h, Bool.false_or, Bool.and_eq_true]

/-- R302: without an overrun, RX_FULL is the one cause left. -/
theorem irq_iff_of_no_overrun {s : State cap} (h : s.flags.overrun = false) :
    s.irq = true ↔ s.cfg.ie = true ∧ s.rx.full = true := by
  rw [State.irq, h, Bool.or_false, Bool.and_eq_true]

/-- R213: a 1 in the bit of OVERRUN clears it, whatever it was. -/
theorem and_not_statusOverrun {d : RegWord} (h : d.getLsbD 2 = true) (b : Bool) : (b && !statusOverrun d) = false := by
  rw [statusOverrun, h, Bool.not_true, Bool.and_false]

/-- Settles O37: a pop empties the latch, a 1 in STATUS bit 2 clears OVERRUN, and a 0 in CTRL bit 2 clears IE, each with the
rest of the level's inputs held; reset clears IE too. -/
theorem interruptLine : Obligations.InterruptLine := by
  refine ⟨irq_iff, fun d s => ⟨_, rfl, ?pop⟩, fun d s hd => ⟨_, rfl, ?overrunCleared⟩, fun d s hd => ⟨_, rfl, ?masked⟩, ?reset⟩
  case pop => exact irq_iff_of_empty (s := s.setRx { s.rx with full := false }) rfl
  case overrunCleared => exact irq_iff_of_no_overrun (and_not_statusOverrun hd s.flags.overrun)
  case masked => exact irq_of_masked hd
  case reset => exact irq_of_masked rfl

end Sys2Proof.Machine
end

section
/-! PROOFS. RST as an instruction (R400, R54): the state it leaves is the reset state but for what R400 leaves unspecified and
the pins of the coming cycles, and its interrupt line is low. -/

open Sys2Proof Sys2Proof.Machine

namespace Sys2Proof.Machine

variable {cap : Nat}

/-- The one arm of the dispatch that RST takes. -/
theorem exec_rst (s : State) : exec .rst s = .next s.resetAll := rfl

/-- R54, R400: the fields on which the state after RST and the reset state can differ, with the values that they take. -/
theorem resetAll_eq_resetOf (s : State cap) :
    s.resetAll = { State.resetOf cap with
      buf := freeBuffer s.freeCount, busRdata := some (Config.freeRdata s.freeCount),
      inputs := s.inputs, freeCount := s.freeCount + 1 } := rfl

/-- R302, R400: reset clears IE, which masks both causes. -/
theorem irq_resetAll (s : State cap) : s.resetAll.irq = false := irq_of_masked (congrArg ConfigRegs.ie s.resetAll_cfg)

/-- Settles O24: the PIN word 1 is RST, and RST leaves `resetAll`, whose other fields are those of the reset state. -/
theorem resetPinResets : Obligations.ResetPinResets := fun s =>
  ⟨decodePin_eq_ok.2 ⟨rfl, rfl⟩, s.resetAll, exec_rst s, resetAll_eq_resetOf s, irq_resetAll s⟩

end Sys2Proof.Machine
end
